-- ==== Sys2Proof/Word.lean ====
section
/-! DEFINITION. The word types of the block: the W-bit scalar, the doubled-width intermediate, the 4-bit opcode
and the 3-bit cause code (spec/00_scope.md R7, R9; spec/10_state.md R30, R31, R34). -/

namespace Sys2Proof

/-- A scalar of width `W`: the type `S` of every operand, every result and every constant register (R7). -/
abbrev Word (W : Nat) := BitVec W

/-- The doubled-width intermediate type `D`, `DW = 2*W` bits (R9). -/
abbrev DWord (W : Nat) := BitVec (2 * W)

/-- The opcode field `op[3:0]` of the command port (R30). -/
abbrev Opcode := BitVec 4

/-- The 3-bit code held by CAUSE and driven on the response's `cause` field (R31, R34). -/
abbrev CauseCode := BitVec 3

end Sys2Proof
end

