-- ==== Sys2Proof/Config.lean ====
section
/-! DEFINITION. The two parameters an implementation fixes (spec/00_scope.md R7, R8; spec/92_eei_decisions.md, "Open
parameters") and the one free value of the block (spec/60_exceptions.md R206). -/

namespace Sys2Proof

/-- The arguments a model takes: they are fixed for the life of the hardware and no command reads or writes them.
They stand in `State` (log entry 1), so that a statement about every state holds for every width and both builds. -/
structure Config where
  /-- The scalar width `W` (R7). -/
  W : Nat
  /-- `CHECKED`: true is the checked/debug build, false the optimized build (R8). -/
  checked : Bool
deriving DecidableEq, Repr

/-- The widths the spec admits: `W >= 8` (R7). -/
abbrev Config.Legal (c : Config) : Prop := 8 ≤ c.W

/-- The parameters of `State.reset` and of `decodeTableWord`: W = 32 and CHECKED = true.
DESIGN CHOICE (log entry 2): the spec leaves both open; these are the defaults of spec/95_test_vectors.md. -/
def Config.standard : Config := { W := 32, checked := true }

/-- `draw_W()` (R13, R206): the value answered to an out-of-range operand when CHECKED is false. It has no body, so
nothing can be proved of its value; the argument `n` is the running number of the draw, so that every draw is fresh
(log entry 3). -/
opaque Config.freeDraw (W : Nat) (n : Nat) : Word W

end Sys2Proof
end

