-- ==== Sys2Proof/Syntax.lean ====
section
/-! DEFINITION. The nine outcomes of the decoder (spec/30_encoding.md R61, R69), one constructor for each row of
spec/opcode_table.json. -/

namespace Sys2Proof

/-- One command. `a` and `b` are the values on ports A and B, unsigned and taken as they stand (R62); `WellFormed`
says which naturals fit ports of width W. A command keeps the ports it ignores (R66), so that no bit of a command
word is lost in decoding. -/
inductive Instr where
  /-- CFG: configure the engine with modulus `a`; `b` is ignored (R101). -/
  | cfg (a b : Nat)
  /-- ADDM: modular addition (R121). -/
  | addm (a b : Nat)
  /-- SUBM: modular subtraction, minuend `a`, subtrahend `b` (R131). -/
  | subm (a b : Nat)
  /-- MULM: modular multiplication (R141). -/
  | mulm (a b : Nat)
  /-- RDMOD: read the modulus; both ports ignored (R161). -/
  | rdmod (a b : Nat)
  /-- RDBITS: read `modulus_bits`; both ports ignored (R163). -/
  | rdbits (a b : Nat)
  /-- RDMU: read the Barrett constant; both ports ignored (R165). -/
  | rdmu (a b : Nat)
  /-- RDALPHA: read `alpha`; both ports ignored (R167). -/
  | rdalpha (a b : Nat)
  /-- The reserved opcodes 0x8 to 0xF: `low` is `op[2:0]`, and `op[3]` is 1 (R64); both ports ignored. -/
  | reserved (low : BitVec 3) (a b : Nat)
deriving DecidableEq, Repr

/-- The value on port A. -/
def Instr.portA : Instr → Nat
  | .cfg a _ => a
  | .addm a _ => a
  | .subm a _ => a
  | .mulm a _ => a
  | .rdmod a _ => a
  | .rdbits a _ => a
  | .rdmu a _ => a
  | .rdalpha a _ => a
  | .reserved _ a _ => a

/-- The value on port B. -/
def Instr.portB : Instr → Nat
  | .cfg _ b => b
  | .addm _ b => b
  | .subm _ b => b
  | .mulm _ b => b
  | .rdmod _ b => b
  | .rdbits _ b => b
  | .rdmu _ b => b
  | .rdalpha _ b => b
  | .reserved _ _ b => b

end Sys2Proof
end

