-- ==== Sys2Proof/WellFormed.lean ====
section
/-! DEFINITION. Which terms of `Instr` are commands of a block of width W: those whose two operands are W-bit values
(spec/10_state.md R30; spec/30_encoding.md R62, R67). The opcode needs no check: `reserved` holds three bits. -/

namespace Sys2Proof

/-- A natural number that a W-bit port can carry. -/
abbrev FitsPort (W v : Nat) : Prop := v < 2 ^ W

/-- The command exists at width W: "A literal must be below `2^W`, and a line with a larger literal spells no
command" (R67); the ignored fields are W bits too, with any value (R66). -/
abbrev Instr.WellFormed (W : Nat) (i : Instr) : Prop := FitsPort W i.portA ∧ FitsPort W i.portB

end Sys2Proof
end

