-- ==== Sys2Proof/Decode.lean ====
section
/-! DEFINITION. The command format, the decoder and the encoder (spec/30_encoding.md R60 to R66, R69;
spec/10_state.md R30). The decoder is total on the command port's three fields, and on packed words it rejects by name
every word that is longer than a command. -/

namespace Sys2Proof

/-- One command as the command port carries it: three fields side by side (R30). -/
structure Command (W : Nat) where
  op : Opcode
  a : Word W
  b : Word W
deriving DecidableEq, Repr

/-- Why a packed word is no command. -/
inductive DecodeError where
  /-- The word has a bit set above its `4 + 2W` bits: a command has one fixed length (R60). Safe. -/
  | longerThanCommand
deriving DecidableEq, Repr

/-- A row of the opcode map (R61): an opcode belongs to it when its bits under `mask` are `pattern`. -/
structure OpcodeRow where
  mnemonic : String
  pattern : Opcode
  mask : Opcode
deriving DecidableEq, Repr

/-- The opcode map (R61), as spec/opcode_table.json lists it. -/
def opcodeTable : List OpcodeRow :=
  [⟨"CFG", 0x0, 0xF⟩, ⟨"ADDM", 0x1, 0xF⟩, ⟨"SUBM", 0x2, 0xF⟩, ⟨"MULM", 0x3, 0xF⟩, ⟨"RDMOD", 0x4, 0xF⟩,
   ⟨"RDBITS", 0x5, 0xF⟩, ⟨"RDMU", 0x6, 0xF⟩, ⟨"RDALPHA", 0x7, 0xF⟩, ⟨"(reserved)", 0x8, 0x8⟩]

/-- The row selects this opcode: `(cmd & mask) == match` (spec/opcode_table.json, note). -/
def OpcodeRow.selects (r : OpcodeRow) (op : Opcode) : Bool := op &&& r.mask == r.pattern

/-- The mnemonic of an instruction's row in the opcode map (R61). -/
def Instr.mnemonic : Instr → String
  | .cfg _ _ => "CFG"
  | .addm _ _ => "ADDM"
  | .subm _ _ => "SUBM"
  | .mulm _ _ => "MULM"
  | .rdmod _ _ => "RDMOD"
  | .rdbits _ _ => "RDBITS"
  | .rdmu _ _ => "RDMU"
  | .rdalpha _ _ => "RDALPHA"
  | .reserved _ _ _ => "(reserved)"

/-- Decode (R69): a total function of `op` alone; A and B are only carried along, unsigned (R62). -/
def decode {W : Nat} (c : Command W) : Instr :=
  match c.op.toNat with
  | 0 => .cfg c.a.toNat c.b.toNat
  | 1 => .addm c.a.toNat c.b.toNat
  | 2 => .subm c.a.toNat c.b.toNat
  | 3 => .mulm c.a.toNat c.b.toNat
  | 4 => .rdmod c.a.toNat c.b.toNat
  | 5 => .rdbits c.a.toNat c.b.toNat
  | 6 => .rdmu c.a.toNat c.b.toNat
  | 7 => .rdalpha c.a.toNat c.b.toNat
  | _ => .reserved (c.op.setWidth 3) c.a.toNat c.b.toNat

/-- The fields of a packed command word: `cmd[3:0]`, `cmd[W+3:4]` and `cmd[2W+3:W+4]` (R60). -/
def unpack {W : Nat} (cmd : BitVec (4 + 2 * W)) : Command W :=
  { op := cmd.extractLsb' 0 4, a := cmd.extractLsb' 4 W, b := cmd.extractLsb' (W + 4) W }

/-- Decode a packed word of any size at width W: a word longer than `4 + 2W` bits is rejected by name (R60). -/
def decodeWord (W word : Nat) : Except DecodeError Instr :=
  if word < 2 ^ (4 + 2 * W) then .ok (decode (unpack (W := W) (BitVec.ofNat (4 + 2 * W) word)))
  else .error .longerThanCommand

/-- The opcode field of an instruction (R61). -/
def Instr.opcode : Instr → Opcode
  | .cfg _ _ => 0x0
  | .addm _ _ => 0x1
  | .subm _ _ => 0x2
  | .mulm _ _ => 0x3
  | .rdmod _ _ => 0x4
  | .rdbits _ _ => 0x5
  | .rdmu _ _ => 0x6
  | .rdalpha _ _ => 0x7
  | .reserved low _ _ => 0x8 + low.setWidth 4

/-- The command word of a well-formed instruction: `cmd = op + a * 2^4 + b * 2^(W+4)` (R60). -/
def encode (W : Nat) (i : Instr) : BitVec (4 + 2 * W) :=
  BitVec.ofNat (4 + 2 * W) (i.opcode.toNat + i.portA * 2 ^ 4 + i.portB * 2 ^ (W + 4))

/-- The command word of three port fields (R60). -/
def pack {W : Nat} (c : Command W) : BitVec (4 + 2 * W) :=
  BitVec.ofNat (4 + 2 * W) (c.op.toNat + c.a.toNat * 2 ^ 4 + c.b.toNat * 2 ^ (W + 4))

/-- The instruction the decoder reads from a word numbered as spec/opcode_table.json numbers it (bit 0 is `op[0]`,
R60), at the width of `Config.standard`; every bit at or above `nbits` is 0. -/
def decodeTableWord (nbits w : Nat) : Option Instr :=
  match decodeWord Config.standard.W (w % 2 ^ nbits) with
  | .ok i => some i
  | .error _ => none

end Sys2Proof
end

