-- ==== Sys2Proof/Machine/State.lean ====
section
/-! DEFINITION. The state of the machine: the seven registers of spec/10_state.md (R21 to R25, R29, R34), the response
port (R31), and what the hosts bring to and take from the two ports (R20, R30 to R32, R42). -/

namespace Sys2Proof.Machine

/-- The status field of a response (R31). -/
inductive Status where
  /-- The command was performed. -/
  | ok
  /-- The command raised a fault now, or found the engine already faulted, and had no effect. -/
  | fault
deriving DecidableEq, Repr

/-- The causes a fault can have (R201); `Cause.code` gives the 3-bit codes. -/
inductive Cause where
  | illegalOpcode
  | notConfigured
  | alreadyConfigured
  | invalidModulus
  | operandRange
deriving DecidableEq, Repr

/-- One response on the response port (R31). -/
structure Response (W : Nat) where
  result : Word W
  status : Status
  cause : CauseCode
deriving DecidableEq, Repr

/-- What arrives at the block's inputs: a command of some host at the command port (R30), or the reset input (R32).
The host number is for the reader and for `Delivery`; the engine never sees it (R216). -/
inductive PortEvent (W : Nat) where
  | command (host : Nat) (cmd : Command W)
  | reset
deriving DecidableEq, Repr

/-- A response as received by the host that issued the command (R42: "Each host receives its own command's
response"). -/
structure Delivery (W : Nat) where
  host : Nat
  response : Response W
deriving DecidableEq, Repr

/-- The state. The registers and the response port are the spec's; `cfg`, `arrivals`, `delivered` and `draws` are the
model's own (log entries 1, 3, 4, 5). -/
structure State where
  /-- The block's parameters W and CHECKED, fixed for the life of the hardware (R7, R8). The model's own field. -/
  cfg : Config
  /-- MODULUS, W bits (R21). -/
  modulus : Word cfg.W
  /-- MODULUS_BITS, W bits (R22). -/
  modulusBits : Word cfg.W
  /-- MU, W bits (R23). -/
  mu : Word cfg.W
  /-- ALPHA, W bits (R24). -/
  alpha : Word cfg.W
  /-- CONFIGURED, 1 bit (R25). -/
  configured : Bool
  /-- FAULTED, 1 bit, sticky (R29). -/
  faulted : Bool
  /-- CAUSE, 3 bits (R34). -/
  cause : CauseCode
  /-- The response port: the response to the last command performed since reset, if any (R31). -/
  response : Option (Response cfg.W)
  /-- What is still to arrive at the inputs, in the total order in which it will be performed, next first (R42, R242).
  The order is the free interleaving of the hosts. The model's own field. -/
  arrivals : List (PortEvent cfg.W)
  /-- The responses the hosts have received, oldest first (R31, R42). The model's own field. -/
  delivered : List (Delivery cfg.W)
  /-- How many values `draw_W()` has given so far (R13, R206). The model's own field. -/
  draws : Nat
deriving DecidableEq, Repr

/-- The reasons for the machine to stop with a fault: none. A fault of the spec is a state of the engine, in which it
goes on answering (R200, R207), so it is a next state; nothing in the spec stops the engine. -/
inductive Fault where
deriving DecidableEq, Repr

/-- The reasons for an instruction to have no step. -/
inductive Refusal where
  /-- Raised by `exec` for an instruction that has no meaning yet. Safe. -/
  | notModelled (mnemonic : String)
  /-- Raised by every meaning, through `State.onPorts`, when an operand is not a W-bit value: such a term is no command
  of this block ("the line spells no command", R67; U20 and U22 of spec/93_implementation_defined.md: refuse). No step
  raises it, because a decoded command has W-bit operands. Safe. -/
  | operandTooWide
deriving DecidableEq, Repr

/-- The machine right after reset or power-on with parameters `c` (R240, R241): every register 0, no response yet,
nothing arrived, waiting. -/
def State.resetFor (c : Config) : State :=
  { cfg := c, modulus := 0, modulusBits := 0, mu := 0, alpha := 0, configured := false, faulted := false, cause := 0,
    response := none, arrivals := [], delivered := [], draws := 0 }

/-- The machine right after power-on, at the parameters of log entry 2. -/
def State.reset : State := State.resetFor Config.standard

end Sys2Proof.Machine
end

