-- ==== Sys2Proof/Machine/Flags.lean ====
section
/-! DEFINITION. The fault state and the response's status: the block's only flags (spec/10_state.md R28, R29, R31, R34).
Cause codes (spec/60_exceptions.md R201), the status bit and the packing of a response (spec/30_encoding.md R63). -/

namespace Sys2Proof.Machine

/-- CAUSE while no fault has been raised since reset: code 0, NONE (R201). -/
def noCause : CauseCode := 0

/-- The cause codes (R201). Codes 6 and 7 are reserved and never produced. -/
def Cause.code : Cause → CauseCode
  | .illegalOpcode => 1
  | .notConfigured => 2
  | .alreadyConfigured => 3
  | .invalidModulus => 4
  | .operandRange => 5

/-- `OK` = 0 and `FAULT` = 1 (R31, R63). -/
def Status.bit : Status → BitVec 1
  | .ok => 0
  | .fault => 1

/-- The response as one word of `W + 4` bits (R63; D24 of spec/92_eei_decisions.md:
`rsp = result + status*2^W + cause*2^(W+1)`). -/
def Response.pack {W : Nat} (r : Response W) : BitVec (W + 4) :=
  BitVec.ofNat (W + 4) (r.result.toNat + r.status.bit.toNat * 2 ^ W + r.cause.toNat * 2 ^ (W + 1))

end Sys2Proof.Machine
end

