-- ==== Sys2Proof/Machine/Operands.lean ====
section
/-! DEFINITION. The operands: how the two ports give W-bit words (spec/10_state.md R30; spec/30_encoding.md R62), the range
test of the arithmetic commands (spec/60_exceptions.md R204), and the bit length of a number (spec/00_scope.md R12). -/

namespace Sys2Proof.Machine

/-- Put the operands `a` and `b` on ports A and B, and act on the two W-bit words. A number that is not a W-bit value
makes no command (R67), so there is no step. -/
def State.onPorts (s : State) (a b : Nat) (act : Word s.cfg.W → Word s.cfg.W → State) :
    Host.Outcome State Fault Refusal :=
  if FitsPort s.cfg.W a ∧ FitsPort s.cfg.W b then
    .next (act (BitVec.ofNat s.cfg.W a) (BitVec.ofNat s.cfg.W b))
  else .refused .operandTooWide

/-- An operand is not in `[0, MODULUS)`; the comparison is made on the W-bit port values against MODULUS (R204). -/
abbrev State.OutOfRange (s : State) (a b : Word s.cfg.W) : Prop :=
  s.modulus.toNat ≤ a.toNat ∨ s.modulus.toNat ≤ b.toNat

/-- `bitlen(v)`: the index of `v`'s highest set bit, counted from 1 (R12). `bitlen(0)` is undefined (R107) and nothing
uses it: the modulus check refuses 0 whatever is written here. -/
def bitlen (v : Nat) : Nat :=
  if v = 0 then 0 else Nat.log2 v + 1

end Sys2Proof.Machine
end

