-- ==== Sys2Proof/Machine/Ops.lean ====
section
/-! DEFINITION. The shared operations of the machine: driving a response, raising a fault, reset (the only way out of a
fault), the prologue the arithmetic commands share, the prologue the accessors share, and how a response reaches its
host. The block has no memory (spec/20_memory.md R40), so no operation over memory stands here. -/

namespace Sys2Proof.Machine

/-- `respond(result, status, cause)`: drive the response port for the current command (R13, R31). -/
def State.respond (s : State) (result : Word s.cfg.W) (status : Status) (cause : CauseCode) : State :=
  { s with response := some { result := result, status := status, cause := cause } }

/-- `respond(result, OK, NONE)`: the answer of a command that was performed (R31). -/
def State.respondOk (s : State) (result : Word s.cfg.W) : State :=
  s.respond result .ok noCause

/-- `raise Fault(c)`: the block's one exception entry. FAULTED and CAUSE are all that is saved, there is no vector and
no mode, and the response is `0 [FAULT c]` (R200, R211). -/
def State.raiseFault (s : State) (c : Cause) : State :=
  { s with
    faulted := true
    cause := c.code
    response := some { result := 0, status := .fault, cause := c.code } }

/-- The answer of a faulted engine to any command: `0 [FAULT CAUSE]`, with no register written (R207). -/
def State.answerFaulted (s : State) : State :=
  s.respond 0 .fault s.cause

/-- The reset action, which is also the only return from a fault (R207, R212, R240): every register to its reset value,
and nothing given back to any host. The parameters, what is still to arrive, what the hosts hold and the running
number of the draws are not registers of the block. -/
def State.resetAction (s : State) : State :=
  { s with
    modulus := 0
    modulusBits := 0
    mu := 0
    alpha := 0
    configured := false
    faulted := false
    cause := noCause
    response := none }

/-- `respond(draw_W(), OK, NONE)`: the answer to an out-of-range operand when CHECKED is false. The value is a fresh
free value, and no register is written (R206). -/
def State.respondDraw (s : State) : State :=
  { s.respondOk (Config.freeDraw s.cfg.W s.draws) with draws := s.draws + 1 }

/-- The operand gate that ADDM, SUBM and MULM share (R204), with the result of the operation's datapath for operands
that pass it. -/
def State.gate (s : State) (a b result : Word s.cfg.W) : State :=
  if s.faulted then s.answerFaulted
  else if !s.configured then s.raiseFault .notConfigured
  else if s.OutOfRange a b then
    if s.cfg.checked then s.raiseFault .operandRange else s.respondDraw
  else s.respondOk result

/-- The behaviour the four accessors share (R160): answer with a constant register's content. -/
def State.readConstant (s : State) (content : Word s.cfg.W) : State :=
  if s.faulted then s.answerFaulted
  else if !s.configured then s.raiseFault .notConfigured
  else s.respondOk content

/-- A host brings an event to the block's inputs: it is performed after all that already wait (R42, R242). -/
def State.arrive (s : State) (e : PortEvent s.cfg.W) : State :=
  { s with arrivals := s.arrivals ++ [e] }

/-- The response on the response port goes to the host whose command it answers (R31, R42). -/
def State.deliver (s : State) (host : Nat) : State :=
  { s with
    delivered := s.delivered ++ s.response.toList.map fun r => { host := host, response := r } }

/-- Deliver the response of a command that had a step. -/
def deliverTo (host : Nat) : Host.Outcome State Fault Refusal → Host.Outcome State Fault Refusal
  | .next t => .next (t.deliver host)
  | .fault r => .fault r
  | .refused r => .refused r

end Sys2Proof.Machine
end

