-- ==== Sys2Proof/Machine/Accessors.lean ====
section
/-! DEFINITION. The four constant accessors: RDMOD, RDBITS, RDMU and RDALPHA (spec/44_accessors.md). They ignore both
ports (R66, R160). -/

namespace Sys2Proof.Machine

/-- RDMOD: read the modulus (R161). -/
def execRdmod (a b : Nat) (s : State) : Host.Outcome State Fault Refusal :=
  s.onPorts a b fun _ _ => s.readConstant s.modulus

/-- RDBITS: read `modulus_bits` (R163). -/
def execRdbits (a b : Nat) (s : State) : Host.Outcome State Fault Refusal :=
  s.onPorts a b fun _ _ => s.readConstant s.modulusBits

/-- RDMU: read the Barrett constant (R165). -/
def execRdmu (a b : Nat) (s : State) : Host.Outcome State Fault Refusal :=
  s.onPorts a b fun _ _ => s.readConstant s.mu

/-- RDALPHA: read `alpha` (R167). -/
def execRdalpha (a b : Nat) (s : State) : Host.Outcome State Fault Refusal :=
  s.onPorts a b fun _ _ => s.readConstant s.alpha

end Sys2Proof.Machine
end

