-- ==== Sys2Proof/Machine/Adder.lean ====
section
/-! DEFINITION. The modular adder: ADDM (spec/41_modular_adder.md). -/

namespace Sys2Proof.Machine

/-- `add_mod_fast(m, a, b)` (R120): the exact sum, with one conditional subtraction of the modulus, on a W-bit result
(R122: nothing is lost for a valid modulus and in-range operands). -/
def addModFast {W : Nat} (m a b : Word W) : Word W :=
  let sum := a.toNat + b.toNat
  BitVec.ofNat W (if m.toNat ≤ sum then sum - m.toNat else sum)

/-- ADDM: modular addition (R121). -/
def execAddm (a b : Nat) (s : State) : Host.Outcome State Fault Refusal :=
  s.onPorts a b fun x y => s.gate x y (addModFast s.modulus x y)

end Sys2Proof.Machine
end

