-- ==== Sys2Proof/Machine/Multiplier.lean ====
section
/-! DEFINITION. The modular multiplier with generalized Barrett reduction: MULM (spec/43_modular_multiplier.md). The
datapath keeps the widths R142 writes on the left of each line. -/

namespace Sys2Proof.Machine

/-- Step 1: `ab`, the exact product in the doubled width (R142). -/
def barrettProduct {W : Nat} (a b : Word W) : DWord W :=
  a.setWidth (2 * W) * b.setWidth (2 * W)

/-- Step 2: `tmp1 = ab >> (k - 2)`; for `k = 1` the shift by -1 is a left shift by 1 (R142, R147). -/
def barrettShifted {W : Nat} (k : Word W) (ab : DWord W) : DWord W :=
  if 2 ≤ k.toNat then ab >>> (k.toNat - 2) else ab <<< 1

/-- Step 3: the quotient estimate `q = (tmp1 * mu) >> (alpha + 2)`, narrowed to W bits (R142). -/
def barrettQuotient {W : Nat} (mu alpha : Word W) (tmp1 : DWord W) : Word W :=
  ((tmp1 * mu.setWidth (2 * W)) >>> (alpha.toNat + 2)).setWidth W

/-- Steps 4 and 5: `narrow(ab - q*m)`, with W-bit wrapping and no overflow report (R142, R146). -/
def barrettRemainder {W : Nat} (m q : Word W) (ab : DWord W) : Word W :=
  ab.setWidth W - q * m

/-- Step 6: subtract the modulus once if the remainder is not below it (R142, R145). -/
def barrettCorrect {W : Nat} (m res : Word W) : Word W :=
  if m.toNat ≤ res.toNat then res - m else res

/-- `barrett_mul(a, b)` (R142), on the content of MODULUS, MODULUS_BITS, MU and ALPHA. -/
def barrettMul {W : Nat} (m k mu alpha a b : Word W) : Word W :=
  let ab := barrettProduct a b
  let q := barrettQuotient mu alpha (barrettShifted k ab)
  barrettCorrect m (barrettRemainder m q ab)

/-- MULM: modular multiplication (R141). -/
def execMulm (a b : Nat) (s : State) : Host.Outcome State Fault Refusal :=
  s.onPorts a b fun x y => s.gate x y (barrettMul s.modulus s.modulusBits s.mu s.alpha x y)

end Sys2Proof.Machine
end

