-- ==== Sys2Proof/Machine/Precompute.lean ====
section
/-! DEFINITION. Constant precomputation, the engine itself: the Barrett constant, the modulus check and CFG
(spec/40_barrett_reduction_engine.md). -/

namespace Sys2Proof.Machine

/-- `mu = floor(2^(2k+3) / m)` with `k = bitlen(m)`, the exact quotient (R102). -/
def barrettConstant (m : Nat) : Nat :=
  2 ^ (2 * bitlen m + 3) / m

/-- `valid_modulus(a)` at width W: at least 1, and its Barrett constant fits MU without loss (R104). -/
abbrev ValidModulus (W a : Nat) : Prop :=
  1 ≤ a ∧ barrettConstant a < 2 ^ W

/-- A successful CFG: the modulus, the three derived constants and CONFIGURED are written, and the response is
`0 [OK NONE]` (R101). -/
def State.completeCfg (s : State) (m : Word s.cfg.W) : State :=
  { s with
    modulus := m
    modulusBits := BitVec.ofNat s.cfg.W (bitlen m.toNat)
    alpha := BitVec.ofNat s.cfg.W (bitlen m.toNat + 3)
    mu := BitVec.ofNat s.cfg.W (barrettConstant m.toNat)
    configured := true
    response := some { result := 0, status := .ok, cause := noCause } }

/-- CFG on a W-bit modulus candidate (R101): one-shot (R100), then the modulus check (R103), in this order (R205). -/
def State.configure (s : State) (m : Word s.cfg.W) : State :=
  if s.faulted then s.answerFaulted
  else if s.configured then s.raiseFault .alreadyConfigured
  else if ¬ ValidModulus s.cfg.W m.toNat then s.raiseFault .invalidModulus
  else s.completeCfg m

/-- CFG: configure the engine with modulus `a` (R101); `b` is ignored (R66). -/
def execCfg (a b : Nat) (s : State) : Host.Outcome State Fault Refusal :=
  s.onPorts a b fun m _ => s.configure m

end Sys2Proof.Machine
end

