-- ==== Sys2Proof/Machine/Reserved.lean ====
section
/-! DEFINITION. The reserved opcodes 0x8 to 0xF (spec/30_encoding.md R64; spec/60_exceptions.md R202). -/

namespace Sys2Proof.Machine

/-- What every reserved opcode does: it raises ILLEGAL_OPCODE whether or not the engine is configured (R202), and a
faulted engine answers it like every other command (R207). -/
def State.refuseOpcode (s : State) : State :=
  if s.faulted then s.answerFaulted else s.raiseFault .illegalOpcode

/-- A reserved opcode, whichever it is; both ports are ignored (R64, R66). -/
def execReserved (_low : BitVec 3) (a b : Nat) (s : State) : Host.Outcome State Fault Refusal :=
  s.onPorts a b fun _ _ => s.refuseOpcode

end Sys2Proof.Machine
end

