-- ==== Sys2Proof/Machine/Subtractor.lean ====
section
/-! DEFINITION. The modular subtractor: SUBM (spec/42_modular_subtractor.md). -/

namespace Sys2Proof.Machine

/-- `sub_mod_fast(m, a, b)` (R130): `a - b` when it does not go below zero, otherwise `(a + m) - b`, on a W-bit result
(R132: nothing is lost for a valid modulus and in-range operands). -/
def subModFast {W : Nat} (m a b : Word W) : Word W :=
  BitVec.ofNat W
    (if b.toNat ≤ a.toNat then a.toNat - b.toNat else (a.toNat + m.toNat) - b.toNat)

/-- SUBM: modular subtraction, minuend `a`, subtrahend `b` (R131). -/
def execSubm (a b : Nat) (s : State) : Host.Outcome State Fault Refusal :=
  s.onPorts a b fun x y => s.gate x y (subModFast s.modulus x y)

end Sys2Proof.Machine
end

