-- ==== Sys2Proof/Machine/Dispatch.lean ====
section
/-! DEFINITION. The dispatch: one arm for each constructor of Instr (spec/30_encoding.md R61). -/

namespace Sys2Proof.Machine

def exec (i : Instr) (s : State) : Host.Outcome State Fault Refusal :=
  match i with
  | .cfg a b => Sys2Proof.Machine.execCfg a b s
  | .addm a b => Sys2Proof.Machine.execAddm a b s
  | .subm a b => Sys2Proof.Machine.execSubm a b s
  | .mulm a b => Sys2Proof.Machine.execMulm a b s
  | .rdmod a b => Sys2Proof.Machine.execRdmod a b s
  | .rdbits a b => Sys2Proof.Machine.execRdbits a b s
  | .rdmu a b => Sys2Proof.Machine.execRdmu a b s
  | .rdalpha a b => Sys2Proof.Machine.execRdalpha a b s
  | .reserved low a b => Sys2Proof.Machine.execReserved low a b s

end Sys2Proof.Machine
end

