-- ==== Sys2Proof/Machine/Step.lean ====
section
/-! DEFINITION. One step of the machine: one command or one reset, performed whole (spec/10_state.md R20, R32;
spec/20_memory.md R42; spec/70_reset_and_hazards.md R241, R242). -/

namespace Sys2Proof.Machine

/-- The next event at the inputs is performed: a reset, or a command, which is decoded, executed and answered to the
host that issued it. With nothing at the inputs the engine waits (R241). -/
def step (s : State) : Host.Outcome State Fault Refusal :=
  match s.arrivals with
  | [] => .next s
  | .reset :: rest => .next (State.resetAction { s with arrivals := rest })
  | .command host cmd :: rest => deliverTo host (exec (decode cmd) { s with arrivals := rest })

/-- `s` with the command word `w` as the next event at the command port, issued by host 0: the block fetches nothing,
and its program is the sequence of commands its hosts bring (R26; log entry 4). Bits of `w` at or above `nbits` are
0, and a command word has `4 + 2W` bits (R60). -/
def State.withFetchWord (s : State) (nbits w : Nat) : State :=
  { s with
    arrivals := .command 0 (unpack (W := s.cfg.W) (BitVec.ofNat (4 + 2 * s.cfg.W) (w % 2 ^ nbits))) :: s.arrivals }

end Sys2Proof.Machine
end

