-- ==== Sys2Proof/Machine/Assembler.lean ====
section
/-! DEFINITION. The host-side command notation: the assembler lines of spec/30_encoding.md R67 and the pseudo-commands of
R68. The block never sees a line, only the command it spells. -/

namespace Sys2Proof.Machine

/-- A line of the command syntax (R67), with its literals, or a pseudo-command (R68). -/
inductive AsmLine where
  | cfg (m : Nat)
  | addm (a b : Nat)
  | subm (a b : Nat)
  | mulm (a b : Nat)
  | rdmod
  | rdbits
  | rdmu
  | rdalpha
  /-- `.op <n>, <a>, <b>`: a raw command with any opcode 0..15. -/
  | rawOp (n a b : Nat)
  | negm (x : Nat)
  | dblm (x : Nat)
  | sqrm (x : Nat)
deriving DecidableEq, Repr

/-- The three field values a line spells: `op`, `a` and `b`; an omitted field assembles as 0 (R66, R67), and a
pseudo-command is its expansion (R68). -/
def AsmLine.fields : AsmLine → Nat × Nat × Nat
  | .cfg m => (0x0, m, 0)
  | .addm a b => (0x1, a, b)
  | .subm a b => (0x2, a, b)
  | .mulm a b => (0x3, a, b)
  | .rdmod => (0x4, 0, 0)
  | .rdbits => (0x5, 0, 0)
  | .rdmu => (0x6, 0, 0)
  | .rdalpha => (0x7, 0, 0)
  | .rawOp n a b => (n, a, b)
  | .negm x => (0x2, 0, x)
  | .dblm x => (0x1, x, x)
  | .sqrm x => (0x3, x, x)

/-- The command a line spells at width W. A literal that is not below `2^W`, or an opcode above 15, spells no command
(R67; U20 of spec/93_implementation_defined.md). -/
def AsmLine.assemble (W : Nat) (l : AsmLine) : Option (Command W) :=
  let (op, a, b) := l.fields
  if op < 16 ∧ FitsPort W a ∧ FitsPort W b then
    some { op := BitVec.ofNat 4 op, a := BitVec.ofNat W a, b := BitVec.ofNat W b }
  else none

/-- A blank between the parts of a line: a space or a tab (log entry 6). -/
def isBlank (c : Char) : Bool := c == ' ' || c == '\t'

/-- A text without the blanks around it. -/
def trimBlanks (text : List Char) : List Char :=
  ((text.dropWhile isBlank).reverse.dropWhile isBlank).reverse

/-- The parts of a text between its commas. -/
def splitCommas : List Char → List (List Char)
  | [] => [[]]
  | c :: cs =>
    match splitCommas cs with
    | [] => [[c]]
    | w :: ws => if c == ',' then [] :: w :: ws else (c :: w) :: ws

/-- The value of a digit, decimal or hexadecimal in either case. -/
def digitValue (c : Char) : Option Nat :=
  let n := c.toNat
  if 48 ≤ n ∧ n ≤ 57 then some (n - 48)
  else if 65 ≤ n ∧ n ≤ 70 then some (n - 55)
  else if 97 ≤ n ∧ n ≤ 102 then some (n - 87)
  else none

/-- The number a sequence of digits spells in a base, after the digits that gave `acc`. -/
def readDigits (base : Nat) : Nat → List Char → Option Nat
  | acc, [] => some acc
  | acc, c :: cs =>
    match digitValue c with
    | none => none
    | some d => if d < base then readDigits base (acc * base + d) cs else none

/-- A natural-number literal, "in decimal or with a `0x` prefix in hexadecimal" (R67). -/
def readLiteral : List Char → Option Nat
  | [] => none
  | '0' :: 'x' :: d :: ds => readDigits 16 0 (d :: ds)
  | d :: ds => readDigits 10 0 (d :: ds)

/-- The literals of an operand list; none if one of them is no literal. -/
def readLiterals : List (List Char) → Option (List Nat)
  | [] => some []
  | w :: ws =>
    match readLiteral (trimBlanks w), readLiterals ws with
    | some n, some ns => some (n :: ns)
    | _, _ => none

/-- The line with this name and these operands (R67, R68). -/
def lineOf (name : List Char) : List Nat → Option AsmLine
  | [] =>
    if name = "RDMOD".toList then some .rdmod
    else if name = "RDBITS".toList then some .rdbits
    else if name = "RDMU".toList then some .rdmu
    else if name = "RDALPHA".toList then some .rdalpha
    else none
  | [x] =>
    if name = "CFG".toList then some (.cfg x)
    else if name = "NEGM".toList then some (.negm x)
    else if name = "DBLM".toList then some (.dblm x)
    else if name = "SQRM".toList then some (.sqrm x)
    else none
  | [a, b] =>
    if name = "ADDM".toList then some (.addm a b)
    else if name = "SUBM".toList then some (.subm a b)
    else if name = "MULM".toList then some (.mulm a b)
    else none
  | [n, a, b] => if name = ".op".toList then some (.rawOp n a b) else none
  | _ => none

/-- Read one line of the command syntax: a name, then operands separated by commas; a `;` starts a comment (R67).
What is no such line, an empty one included, reads as none. -/
def readLine (text : List Char) : Option AsmLine :=
  let body := trimBlanks (text.takeWhile fun c => c != ';')
  let name := body.takeWhile fun c => !isBlank c
  let rest := trimBlanks (body.dropWhile fun c => !isBlank c)
  match (if rest = [] then some [] else readLiterals (splitCommas rest)) with
  | none => none
  | some operands => lineOf name operands

/-- The command that a line of text spells at width W, if it spells one (R67). -/
def assembleText (W : Nat) (text : List Char) : Option (Command W) :=
  match readLine text with
  | none => none
  | some l => l.assemble W

end Sys2Proof.Machine
end

