-- ==== Sys2Proof/Safety.lean ====
section
/-! DEFINITION. The terms claims are stated in: the invariant of the machine (spec/10_state.md R33, R34; spec/60_exceptions.md
R201, R207), when an engine can work, what a normal end of a run is, and what the hosts issue and receive
(spec/20_memory.md R42, R46). -/

namespace Sys2Proof.Machine

/-- The constant invariant (R33): what holds of the four constant registers while CONFIGURED = 1. -/
structure State.ConstantsHold (s : State) : Prop where
  modulus_valid : ValidModulus s.cfg.W s.modulus.toNat
  bits_eq : s.modulusBits.toNat = bitlen s.modulus.toNat
  alpha_eq : s.alpha.toNat = s.modulusBits.toNat + 3
  mu_eq : s.mu.toNat = 2 ^ (2 * s.modulusBits.toNat + 3) / s.modulus.toNat

/-- Before a successful CFG the four constant registers stand at their reset values, since "Only a successful CFG
writes" each of them (R21 to R24, R240). -/
structure State.ConstantsAtReset (s : State) : Prop where
  modulus_zero : s.modulus = 0
  bits_zero : s.modulusBits = 0
  alpha_zero : s.alpha = 0
  mu_zero : s.mu = 0

/-- FAULTED and CAUSE agree: CAUSE is NONE exactly while FAULTED = 0, codes 6 and 7 are never produced, and OPERAND_RANGE
only in a checked build (R34, R201). -/
structure State.CauseHolds (s : State) : Prop where
  none_iff : s.cause = noCause ↔ s.faulted = false
  not_reserved : s.cause.toNat < 6
  range_checked : s.cause = Cause.operandRange.code → s.cfg.checked = true

/-- The invariant of the machine, for a legal width. -/
structure State.Inv (s : State) : Prop where
  legal : s.cfg.Legal
  constants : s.configured = true → s.ConstantsHold
  unconfigured : s.configured = false → s.ConstantsAtReset
  cause : s.CauseHolds

/-- An engine that can work: CONFIGURED = 1 and FAULTED = 0. -/
abbrev State.Ready (s : State) : Prop := s.configured = true ∧ s.faulted = false

/-- A state that may count as the normal end of a run: "A model must treat a run that reaches FAULTED = 1 as faulted
for good. No claim may treat it as a normal end" (R207). -/
abbrev State.NormalEnd (s : State) : Prop := s.faulted = false

/-- An operand in `[0, MODULUS)` (R15, "in-range operand"). -/
abbrev State.InRange (s : State) (v : Nat) : Prop := v < s.modulus.toNat

end Sys2Proof.Machine

namespace Sys2Proof

open Machine in
/-- The instruction is one of ADDM, SUBM, MULM with both operands in range, or an accessor: it neither raises a fault
nor draws on a ready engine, and it writes no register (R44, R46). -/
def Instr.Plain (s : State) : Instr → Prop
  | .cfg _ _ => False
  | .addm a b => s.InRange a ∧ s.InRange b
  | .subm a b => s.InRange a ∧ s.InRange b
  | .mulm a b => s.InRange a ∧ s.InRange b
  | .rdmod _ _ => True
  | .rdbits _ _ => True
  | .rdmu _ _ => True
  | .rdalpha _ _ => True
  | .reserved _ _ _ => False

/-- The instruction is one of the three arithmetic commands (R204). -/
def Instr.Arithmetic : Instr → Prop
  | .cfg _ _ => False
  | .addm _ _ => True
  | .subm _ _ => True
  | .mulm _ _ => True
  | .rdmod _ _ => False
  | .rdbits _ _ => False
  | .rdmu _ _ => False
  | .rdalpha _ _ => False
  | .reserved _ _ _ => False

end Sys2Proof

namespace Sys2Proof.Machine

/-- The same machine with the other parameter CHECKED (R8). -/
def State.withChecked (s : State) (c : Bool) : State :=
  { cfg := { W := s.cfg.W, checked := c }, modulus := s.modulus, modulusBits := s.modulusBits, mu := s.mu,
    alpha := s.alpha, configured := s.configured, faulted := s.faulted, cause := s.cause, response := s.response,
    arrivals := s.arrivals, delivered := s.delivered, draws := s.draws }

/-- An operand of the instruction is not below MODULUS (R203, R206). -/
abbrev State.PortOutOfRange (s : State) (i : Instr) : Prop :=
  s.modulus.toNat ≤ i.portA ∨ s.modulus.toNat ≤ i.portB

/-- The engine performs the instruction, answers the value `v` with status OK, and writes no register (R31, R44). -/
def State.Answers (s : State) (i : Instr) (v : Nat) : Prop :=
  ∃ r : Word s.cfg.W, r.toNat = v ∧
    exec i s = .next { s with response := some { result := r, status := .ok, cause := 0 } }

/-- `n` steps of the machine, as the host's interface runs them. -/
def run (n : Nat) (s : State) : Host.Outcome State Fault Refusal := Host.Core.run core n s

/-- The event is a command. -/
def PortEvent.IsCommand {W : Nat} : PortEvent W → Prop
  | .command _ _ => True
  | .reset => False

/-- The event is a command whose instruction is plain in `s`. -/
def PortEvent.Plain (s : State) : PortEvent s.cfg.W → Prop
  | .command _ cmd => Instr.Plain s (decode cmd)
  | .reset => False

/-- The commands of one host among the events that arrive, in the order the host issued them (R42). -/
def commandsOf {W : Nat} (host : Nat) : List (PortEvent W) → List (Command W)
  | [] => []
  | .command h cmd :: rest => if h = host then cmd :: commandsOf host rest else commandsOf host rest
  | .reset :: rest => commandsOf host rest

/-- The hosts of the commands among the events that arrive, in their total order (R42). -/
def issuers {W : Nat} : List (PortEvent W) → List Nat
  | [] => []
  | .command h _ :: rest => h :: issuers rest
  | .reset :: rest => issuers rest

/-- The responses one host has received, oldest first (R42). -/
def receivedBy {W : Nat} (host : Nat) : List (Delivery W) → List (Response W)
  | [] => []
  | d :: rest => if d.host = host then d.response :: receivedBy host rest else receivedBy host rest

end Sys2Proof.Machine
end

