-- ==== Sys2Proof/Certificates/Slice0/Obligations.lean ====
section
/-! DEFINITION. The statements for the provers. A statement about what a command does gives the whole next state as an
equation, so that it is the command's result, its completion and its frame at once: what `{ s with ... }` does not name
is unchanged. -/

open Sys2Proof Sys2Proof.Machine

/-! ## Encoding (spec/30_encoding.md) -/

/-- Decoding the command word of a well-formed instruction gives the instruction back, every operand at every value
(R60, R61, R69). -/
def Obligations.DecodeOfEncodeIsTheInstruction : Prop :=
  ∀ (W : Nat) (i : Instr), i.WellFormed W → decodeWord W (encode W i).toNat = .ok i

/-- Every packed command word decodes to a well-formed instruction whose encoding is that word: no bit is dropped, the
ignored fields included (R60, R66). -/
def Obligations.EncodeOfDecodeIsTheWord : Prop :=
  ∀ (W : Nat) (w : BitVec (4 + 2 * W)),
    (decode (unpack w)).WellFormed W ∧ encode W (decode (unpack w)) = w

/-- The command word of a well-formed instruction: `cmd = op + a * 2^4 + b * 2^(W+4)`, with the three fields at
`cmd[3:0]`, `cmd[W+3:4]` and `cmd[2W+3:W+4]`; no other length exists, so a longer word is rejected (R60). -/
def Obligations.CommandWordHoldsItsThreeFields : Prop :=
  ∀ (W : Nat),
    (∀ i : Instr, i.WellFormed W →
      (encode W i).toNat = i.opcode.toNat + i.portA * 2 ^ 4 + i.portB * 2 ^ (W + 4) ∧
      (encode W i).extractLsb' 0 4 = i.opcode ∧
      ((encode W i).extractLsb' 4 W).toNat = i.portA ∧
      ((encode W i).extractLsb' (W + 4) W).toNat = i.portB) ∧
    (∀ word : Nat, 2 ^ (4 + 2 * W) ≤ word → decodeWord W word = .error .longerThanCommand)

/-- `decode(op)` is the `op`-th mnemonic for `op < 8` and RESERVED otherwise, A and B pass through as unsigned integers,
and decoding never depends on A, B or W: nothing but `op` selects the outcome (R62, R69). -/
def Obligations.DecodeSelectsByOpcodeAlone : Prop :=
  (∀ (W : Nat) (c : Command W),
    (decode c).mnemonic =
      ["CFG", "ADDM", "SUBM", "MULM", "RDMOD", "RDBITS", "RDMU", "RDALPHA"].getD c.op.toNat "(reserved)" ∧
    (decode c).opcode = c.op ∧ (decode c).portA = c.a.toNat ∧ (decode c).portB = c.b.toNat) ∧
  (∀ (W V : Nat) (c : Command W) (d : Command V), c.op = d.op → (decode c).mnemonic = (decode d).mnemonic)

/-- Every 4-bit opcode selects exactly one row of the opcode map, the row of the instruction it decodes to (R61). -/
def Obligations.OpcodeSelectsExactlyOneRow : Prop :=
  ∀ (W : Nat) (c : Command W), ∃ r : OpcodeRow,
    opcodeTable.filter (fun row => row.selects c.op) = [r] ∧ r.mnemonic = (decode c).mnemonic

/-- Command words written out in the programs of spec/95_test_vectors.md (P1, P2, P3, P6 at W = 32; P4 at W = 64) decode
to the commands they stand for (R60, R61). -/
def Obligations.SpecCommandWordsDecode : Prop :=
  decodeWord 32 0x00000000000000110 = .ok (.cfg 17 0) ∧
  decodeWord 32 0x00002674000007821 = .ok (.addm 1922 9844) ∧
  decodeWord 32 0x00002EE000002DF62 = .ok (.subm 11766 12000) ∧
  decodeWord 32 0x0000162E000004D23 = .ok (.mulm 1234 5678) ∧
  decodeWord 32 0x00000000000000004 = .ok (.rdmod 0 0) ∧
  decodeWord 64 0x000000000000000000000000000000005 = .ok (.rdbits 0 0) ∧
  decodeWord 32 0x00000000000000006 = .ok (.rdmu 0 0) ∧
  decodeWord 32 0x00000000000000007 = .ok (.rdalpha 0 0) ∧
  decodeWord 32 0x00000002000000019 = .ok (.reserved 1 1 2) ∧
  decodeWord 64 0x0FFFFFFFFFFFFFFE0FFFFFFFFFFFFFFE3 = .ok (.mulm 1152921504606846974 1152921504606846974)

/-- The packed response: `rsp[W-1:0] = result`, `rsp[W] = status` with OK = 0 and FAULT = 1, `rsp[W+3:W+1] = cause`
(R63). -/
def Obligations.ResponseWordHoldsItsThreeFields : Prop :=
  Status.ok.bit = 0 ∧ Status.fault.bit = 1 ∧
  ∀ (W : Nat) (r : Response W),
    r.pack.extractLsb' 0 W = r.result ∧
    r.pack.extractLsb' W 1 = r.status.bit ∧
    r.pack.extractLsb' (W + 1) 3 = r.cause

/-- The assembler lines and what they spell: omitted fields assemble as 0, a pseudo-command is its expansion, and a line
with a literal of `2^W` or more spells no command (R66, R67, R68). -/
def Obligations.AssemblerLinesSpellTheirCommands : Prop :=
  ∀ (W a b : Nat),
    let spells := fun l : AsmLine => (l.assemble W).map fun c => decode c
    (FitsPort W a → FitsPort W b →
      spells (.cfg a) = some (.cfg a 0) ∧
      spells (.addm a b) = some (.addm a b) ∧
      spells (.subm a b) = some (.subm a b) ∧
      spells (.mulm a b) = some (.mulm a b) ∧
      spells .rdmod = some (.rdmod 0 0) ∧
      spells .rdbits = some (.rdbits 0 0) ∧
      spells .rdmu = some (.rdmu 0 0) ∧
      spells .rdalpha = some (.rdalpha 0 0) ∧
      (∀ low : BitVec 3, spells (.rawOp (8 + low.toNat) a b) = some (.reserved low a b)) ∧
      spells (.negm a) = some (.subm 0 a) ∧
      spells (.dblm a) = some (.addm a a) ∧
      spells (.sqrm a) = some (.mulm a a)) ∧
    (¬ FitsPort W a →
      spells (.cfg a) = none ∧ spells (.addm a b) = none ∧ spells (.subm a b) = none ∧ spells (.mulm a b) = none ∧
      spells (.addm b a) = none ∧ spells (.subm b a) = none ∧ spells (.mulm b a) = none ∧
      (∀ n : Nat, spells (.rawOp n a b) = none ∧ spells (.rawOp n b a) = none) ∧
      spells (.negm a) = none ∧ spells (.dblm a) = none ∧ spells (.sqrm a) = none)

/-! ## Steps and ports (spec/10_state.md, spec/20_memory.md) -/

/-- A step performs the next command that arrives: it decodes it, executes it, and gives the response to the host that
issued it; the command is taken from the inputs and nothing else is added (R20, R42). -/
def Obligations.StepRunsTheDecodedInstruction : Prop :=
  ∀ (s : State) (host : Nat) (cmd : Command s.cfg.W) (rest : List (PortEvent s.cfg.W)) (t : State),
    exec (decode cmd) { s with arrivals := rest } = .next t →
    step { s with arrivals := .command host cmd :: rest } = .next (t.deliver host)

/-- With nothing at its inputs the engine waits (R241): no state changes. -/
def Obligations.EngineWaitsForACommand : Prop :=
  ∀ s : State, s.arrivals = [] → step s = .next s

/-- Every command, accepted or not, is answered by exactly one response, which goes to the host that issued it: a step
never stops on one (R31, R42). -/
def Obligations.EveryCommandGetsOneResponse : Prop :=
  ∀ (s : State) (host : Nat) (cmd : Command s.cfg.W) (rest : List (PortEvent s.cfg.W)),
    s.arrivals = .command host cmd :: rest →
    ∃ (r : Response s.cfg.W) (m k mu al : Word s.cfg.W) (c f : Bool) (code : CauseCode) (n : Nat),
      step s = .next { s with
        modulus := m, modulusBits := k, mu := mu, alpha := al, configured := c, faulted := f, cause := code,
        response := some r, arrivals := rest, delivered := s.delivered ++ [{ host := host, response := r }],
        draws := n }

/-- An instruction has a step exactly when its operands are W-bit values; a number that does not fit the ports makes no
command (R31, R67). -/
def Obligations.WellFormedInstructionsAlwaysHaveAStep : Prop :=
  ∀ (s : State) (i : Instr),
    (i.WellFormed s.cfg.W → ∃ t, exec i s = .next t) ∧
    (¬ i.WellFormed s.cfg.W → exec i s = .refused .operandTooWide)

/-- What a response reports: on OK the cause is 0; on FAULT the result is 0, the engine is faulted, and the cause is the
value of CAUSE after the command; CFG always answers 0. Every command drives one (R31). -/
def Obligations.ResponseReportsTheOutcome : Prop :=
  ∀ (s : State) (i : Instr) (t : State), exec i s = .next t →
    ∃ r, t.response = some r ∧
      (r.status = .ok → r.cause = 0 ∧ t.faulted = false) ∧
      (r.status = .fault → r.result = 0 ∧ r.cause = t.cause ∧ t.faulted = true) ∧
      ((∃ a b, i = .cfg a b) → r.result = 0)

/-- The engine sees no host: the same command from two hosts leaves the same state but for the host that receives the
response (R216). -/
def Obligations.EngineSeesNoHost : Prop :=
  ∀ (s : State) (h h' : Nat) (cmd : Command s.cfg.W) (rest : List (PortEvent s.cfg.W)),
    ∃ t : State,
      step { s with arrivals := .command h cmd :: rest } = .next (t.deliver h) ∧
      step { s with arrivals := .command h' cmd :: rest } = .next (t.deliver h')

/-! ## Reset (spec/70_reset_and_hazards.md) -/

/-- Reset, and power-on, set every register to 0: the effect depends on neither W, CHECKED nor the registers' contents
(R240). What the response port and the hosts hold afterwards is left open here. -/
def Obligations.ResetSetsEveryRegister : Prop :=
  (∀ (s : State) (rest : List (PortEvent s.cfg.W)),
    ∃ (r : Option (Response s.cfg.W)) (d : List (Delivery s.cfg.W)) (n : Nat),
      step { s with arrivals := .reset :: rest } =
        .next { s with
          modulus := 0, modulusBits := 0, mu := 0, alpha := 0, configured := false, faulted := false, cause := 0,
          response := r, arrivals := rest, delivered := d, draws := n }) ∧
  (∀ c : Config,
    let s := State.resetFor c
    s.modulus = 0 ∧ s.modulusBits = 0 ∧ s.mu = 0 ∧ s.alpha = 0 ∧ s.configured = false ∧ s.faulted = false ∧
    s.cause = 0)

/-- Reset gives nothing back to a host (R244): the response port is empty, and the model's own fields are as before (log
entries 3, 4, 5). -/
def Obligations.ResetGivesNothingBack : Prop :=
  ∀ (s : State) (rest : List (PortEvent s.cfg.W)),
    ∃ (m k mu al : Word s.cfg.W) (c f : Bool) (code : CauseCode),
      step { s with arrivals := .reset :: rest } =
        .next { s with
          modulus := m, modulusBits := k, mu := mu, alpha := al, configured := c, faulted := f, cause := code,
          response := none, arrivals := rest }

/-! ## Constant precomputation (spec/40_barrett_reduction_engine.md) -/

/-- `bitlen(v)` is the index of v's highest set bit, counted from 1 (R12). -/
def Obligations.BitlenIsTheHighestSetBit : Prop :=
  ∀ v : Nat, 1 ≤ v →
    1 ≤ bitlen v ∧ v.testBit (bitlen v - 1) = true ∧ ∀ j : Nat, bitlen v ≤ j → v.testBit j = false

/-- CFG (`op = 0x0`), on every path: a faulted engine answers its cause; a configured one raises ALREADY_CONFIGURED (3) and
keeps its constants; a modulus that is not valid raises INVALID_MODULUS (4); a valid one is written with its three
constants, and CONFIGURED becomes 1. Port B and CHECKED decide nothing (R100, R101, R103). -/
def Obligations.CfgConfiguresOnceWithAValidModulus : Prop :=
  ∀ (s : State) (a b : Nat), FitsPort s.cfg.W a → FitsPort s.cfg.W b →
    (Instr.cfg a b).opcode = 0 ∧
    (s.faulted = true →
      exec (.cfg a b) s = .next { s with response := some { result := 0, status := .fault, cause := s.cause } }) ∧
    (s.faulted = false → s.configured = true →
      exec (.cfg a b) s = .next { s with
        faulted := true, cause := 3, response := some { result := 0, status := .fault, cause := 3 } }) ∧
    (s.faulted = false → s.configured = false → ¬ ValidModulus s.cfg.W a →
      exec (.cfg a b) s = .next { s with
        faulted := true, cause := 4, response := some { result := 0, status := .fault, cause := 4 } }) ∧
    (s.faulted = false → s.configured = false → ValidModulus s.cfg.W a →
      exec (.cfg a b) s = .next { s with
        modulus := BitVec.ofNat s.cfg.W a
        modulusBits := BitVec.ofNat s.cfg.W (bitlen a)
        alpha := BitVec.ofNat s.cfg.W (bitlen a + 3)
        mu := BitVec.ofNat s.cfg.W (2 ^ (2 * bitlen a + 3) / a)
        configured := true
        response := some { result := 0, status := .ok, cause := 0 } })

/-- The bounds on the Barrett constant, its value for a power of two, and when it fits W bits (R105). -/
def Obligations.BarrettConstantBounds : Prop :=
  ∀ m : Nat, 1 ≤ m →
    2 ^ (bitlen m - 1) ≤ m ∧ m < 2 ^ bitlen m ∧
    2 ^ (bitlen m + 3) + 1 ≤ barrettConstant m ∧ barrettConstant m ≤ 2 ^ (bitlen m + 4) ∧
    (barrettConstant m = 2 ^ (bitlen m + 4) ↔ m = 2 ^ (bitlen m - 1)) ∧
    ∀ W : Nat, 8 ≤ W →
      (barrettConstant m < 2 ^ W ↔ bitlen m ≤ W - 5 ∨ (bitlen m = W - 4 ∧ m ≠ 2 ^ (W - 5)))

/-- Which moduli are valid: the definition, its closed form, the bit lengths of the valid ones, the one exception of bit
length `W - 4`, whose constant is `2^W`, and the largest valid and the smallest invalid modulus of the table (R104). -/
def Obligations.ValidModulusClosedForm : Prop :=
  ∀ W a : Nat, 8 ≤ W →
    (ValidModulus W a ↔ 1 ≤ a ∧ 2 ^ (2 * bitlen a + 3) / a < 2 ^ W) ∧
    (ValidModulus W a ↔ 1 ≤ a ∧ a < 2 ^ (W - 4) ∧ a ≠ 2 ^ (W - 5)) ∧
    (ValidModulus W a → bitlen a ≤ W - 4) ∧
    (1 ≤ a → bitlen a ≤ W - 5 → ValidModulus W a) ∧
    (bitlen a = W - 4 → (ValidModulus W a ↔ a ≠ 2 ^ (W - 5))) ∧
    bitlen (2 ^ (W - 5)) = W - 4 ∧ barrettConstant (2 ^ (W - 5)) = 2 ^ W ∧
    (bitlen (2 ^ (W - 4) - 1) = W - 4 ∧ ValidModulus W (2 ^ (W - 4) - 1) ∧ (ValidModulus W a → a ≤ 2 ^ (W - 4) - 1)) ∧
    (¬ ValidModulus W (2 ^ (W - 5)) ∧ (1 ≤ a → ¬ ValidModulus W a → 2 ^ (W - 5) ≤ a))

/-- The source's closed-form check: for `m = 2^61 - 1`, `modulus_bits = 61`, `alpha = 64`, and the exact quotient is
`2^64 + 8 = 18446744073709551624`, of 65 bits; the modulus is valid at no width up to 64, so that CFG raises
INVALID_MODULUS on it at W = 64, and width 65 is the smallest at which it is valid (R109). -/
def Obligations.ClosedFormCheckOfTheSource : Prop :=
  bitlen (2 ^ 61 - 1) = 61 ∧ bitlen (2 ^ 61 - 1) + 3 = 64 ∧
  2 ^ 125 / (2 ^ 61 - 1) = 2 ^ 64 + 8 ∧ barrettConstant (2 ^ 61 - 1) = 18446744073709551624 ∧
  bitlen (barrettConstant (2 ^ 61 - 1)) = 65 ∧
  (∀ W : Nat, W ≤ 64 → ¬ ValidModulus W (2 ^ 61 - 1)) ∧ ValidModulus 65 (2 ^ 61 - 1) ∧
  (∀ (s : State) (b : Nat), s.cfg.W = 64 → FitsPort 64 b → s.faulted = false → s.configured = false →
    exec (.cfg 2305843009213693951 b) s = .next { s with
      faulted := true, cause := 4, response := some { result := 0, status := .fault, cause := 4 } })

/-- Only a CFG that succeeds configures the engine: no other instruction sets CONFIGURED, and none clears it (R25). -/
def Obligations.OnlyAValidCfgConfigures : Prop :=
  ∀ (s : State) (i : Instr) (t : State), exec i s = .next t →
    (s.configured = true → t.configured = true) ∧
    (s.configured = false → t.configured = true →
      s.faulted = false ∧ ∃ a b, i = .cfg a b ∧ ValidModulus s.cfg.W a)

/-! ## The arithmetic commands (spec/41_modular_adder.md, 42_modular_subtractor.md, 43_modular_multiplier.md) -/

/-- The operand gate of ADDM, SUBM and MULM, on every path: FAULTED; NOT_CONFIGURED (2); an operand not below MODULUS (one
or both), which raises OPERAND_RANGE (5) when CHECKED and otherwise answers some value with status OK and writes no
register; in-range operands go on to the datapath, which answers with status OK and writes nothing (R203, R204). -/
def Obligations.OperandGateOfTheArithmeticCommands : Prop :=
  ∀ (s : State) (i : Instr), i.Arithmetic → i.WellFormed s.cfg.W →
    (s.faulted = true →
      exec i s = .next { s with response := some { result := 0, status := .fault, cause := s.cause } }) ∧
    (s.faulted = false → s.configured = false →
      exec i s = .next { s with
        faulted := true, cause := 2, response := some { result := 0, status := .fault, cause := 2 } }) ∧
    (s.faulted = false → s.configured = true → s.PortOutOfRange i → s.cfg.checked = true →
      exec i s = .next { s with
        faulted := true, cause := 5, response := some { result := 0, status := .fault, cause := 5 } }) ∧
    (s.faulted = false → s.configured = true → s.PortOutOfRange i → s.cfg.checked = false →
      ∃ (d : Word s.cfg.W) (n : Nat), exec i s = .next { s with
        response := some { result := d, status := .ok, cause := 0 }, draws := n }) ∧
    (s.faulted = false → s.configured = true → ¬ s.PortOutOfRange i →
      ∃ v : Word s.cfg.W, exec i s = .next { s with response := some { result := v, status := .ok, cause := 0 } })

/-- An out-of-range operand when CHECKED is false: the response is the next draw, `Config.freeDraw` at the running number,
of which nothing is known, and the number goes on, so that no draw is given twice (R206; the form of the free value is
the model's, log entry 3). -/
def Obligations.UncheckedOperandsAnswerAFreshDraw : Prop :=
  ∀ (s : State) (i : Instr), i.Arithmetic → i.WellFormed s.cfg.W →
    s.Ready → s.PortOutOfRange i → s.cfg.checked = false →
    exec i s = .next { s with
      response := some { result := Config.freeDraw s.cfg.W s.draws, status := .ok, cause := 0 }
      draws := s.draws + 1 }

/-- ADDM on in-range operands answers `(a + b) mod m`, which is below `m`, and writes no register (R123). -/
def Obligations.AddmAnswersTheModularSum : Prop :=
  ∀ (s : State) (a b : Nat), s.Ready → s.InRange a → s.InRange b →
    (a + b) % s.modulus.toNat < s.modulus.toNat ∧
    exec (.addm a b) s = .next { s with
      response := some
        { result := BitVec.ofNat s.cfg.W ((a + b) % s.modulus.toNat), status := .ok, cause := 0 } }

/-- SUBM on in-range operands answers the non-negative residue of `a - b`, which is below `m`, and writes no register; when
`a < b` it is `a + m - b`, which lies in `[1, m - 1]` (R133). -/
def Obligations.SubmAnswersTheModularDifference : Prop :=
  ∀ (s : State) (a b : Nat), s.Ready → s.InRange a → s.InRange b →
    ∃ d : Nat, d < s.modulus.toNat ∧ (d : Int) = ((a : Int) - (b : Int)) % (s.modulus.toNat : Int) ∧
      (a < b → d = a + s.modulus.toNat - b ∧ 1 ≤ d ∧ d ≤ s.modulus.toNat - 1) ∧
      exec (.subm a b) s = .next { s with
        response := some { result := BitVec.ofNat s.cfg.W d, status := .ok, cause := 0 } }

/-- The intermediates of the adder and the subtractor fit W bits with three to spare, for every valid modulus and
in-range operands (R122, R132). -/
def Obligations.AdderAndSubtractorIntermediatesFit : Prop :=
  ∀ W m a b : Nat, 8 ≤ W → ValidModulus W m → a < m → b < m →
    a + b ≤ 2 * m - 2 ∧ a + b < 2 ^ (W - 3) ∧ a + m < 2 * m ∧ 2 * m < 2 ^ (W - 3) ∧ b < a + m

/-- The laws of addition and subtraction on in-range operands: commutativity, identity and inverse of ADDM (R125); the
laws of SUBM, and that it is not commutative (R135). `d` is what SUBM answers to `a, b`, `e` to `b, a`, `n` to `0, a`. -/
def Obligations.AdditionAndSubtractionLaws : Prop :=
  ∀ (s : State) (a b : Nat), s.Ready → s.InRange a → s.InRange b →
    (∃ sum : Nat, s.Answers (.addm a b) sum ∧ s.Answers (.addm b a) sum) ∧
    s.Answers (.addm a 0) a ∧
    (∃ n : Nat, s.Answers (.subm 0 a) n ∧ s.Answers (.addm a n) 0) ∧
    (∃ d e : Nat, s.Answers (.subm a b) d ∧ s.Answers (.subm b a) e ∧
      s.Answers (.addm d b) a ∧ s.Answers (.addm d e) 0) ∧
    s.Answers (.subm a 0) a ∧
    (s.modulus.toNat = 17 → s.Answers (.subm 10 12) 15 ∧ s.Answers (.subm 12 10) 2)

/-- The Barrett error bound: the quotient estimate is the true quotient or one less, so the remainder lies in `[0, 2m)`
(R144). -/
def Obligations.BarrettQuotientIsAtMostOneLow : Prop :=
  ∀ m a b : Nat, 2 ≤ bitlen m → a < m → b < m →
    let q := (a * b / 2 ^ (bitlen m - 2)) * barrettConstant m / 2 ^ (bitlen m + 5)
    q ≤ a * b / m ∧ a * b / m ≤ q + 1 ∧ q * m ≤ a * b ∧ a * b - q * m < 2 * m

/-- The bounds on every intermediate of the multiplier, for a valid modulus and in-range operands (R143). -/
def Obligations.BarrettIntermediateBounds : Prop :=
  ∀ W m a b : Nat, 8 ≤ W → ValidModulus W m → a < m → b < m →
    let k := bitlen m
    let mu := barrettConstant m
    let ab := a * b
    let tmp1 := if 2 ≤ k then ab / 2 ^ (k - 2) else ab * 2
    let q := tmp1 * mu / 2 ^ (k + 5)
    ab ≤ (m - 1) ^ 2 ∧ (m - 1) ^ 2 < 2 ^ (2 * k) ∧ 2 ^ (2 * k) ≤ 2 ^ (2 * W - 8) ∧
    (2 ≤ k → tmp1 < 2 ^ (k + 2)) ∧ (k = 1 → tmp1 = 0) ∧
    mu ≤ 2 ^ (k + 4) ∧ mu < 2 ^ W ∧
    tmp1 * mu < 2 ^ (2 * k + 6) ∧ 2 ^ (2 * k + 6) ≤ 2 ^ (2 * W - 2) ∧
    q < 2 ^ (k + 1) ∧ 2 ^ (k + 1) ≤ 2 ^ (W - 3) ∧
    q ≤ ab / m ∧ ab / m ≤ m - 1 ∧
    q * m < m ^ 2 ∧ m ^ 2 < 2 ^ (2 * k) ∧
    q * m ≤ ab ∧ ab - q * m < 2 * m ∧ 2 * m < 2 ^ (W - 3)

/-- The datapath loses nothing: in its 2W-bit and W-bit registers it computes the exact product, the exact quotient
estimate and the exact remainder of R142; steps 4 and 5 give the same in W-bit wrapping arithmetic, in 2W-bit arithmetic
followed by narrowing, and in exact arithmetic (R146). -/
def Obligations.BarrettDatapathIsExact : Prop :=
  ∀ (s : State) (x y : Word s.cfg.W), s.Inv → s.configured = true → s.InRange x.toNat → s.InRange y.toNat →
    let k := s.modulusBits.toNat
    let m := s.modulus.toNat
    let ab := x.toNat * y.toNat
    let tmp1 := if 2 ≤ k then ab / 2 ^ (k - 2) else ab * 2
    let q := tmp1 * s.mu.toNat / 2 ^ (k + 5)
    let product := barrettProduct x y
    let quotient := barrettQuotient s.mu s.alpha (barrettShifted s.modulusBits product)
    let wide : DWord s.cfg.W := product - quotient.setWidth (2 * s.cfg.W) * s.modulus.setWidth (2 * s.cfg.W)
    product.toNat = ab ∧ (barrettShifted s.modulusBits product).toNat = tmp1 ∧ quotient.toNat = q ∧
    (barrettRemainder s.modulus quotient product).toNat = ab - q * m ∧
    wide.setWidth s.cfg.W = barrettRemainder s.modulus quotient product ∧
    (barrettMul s.modulus s.modulusBits s.mu s.alpha x y).toNat =
      if m ≤ ab - q * m then ab - q * m - m else ab - q * m

/-- MULM on in-range operands answers `(a * b) mod m`, which is below `m`, and writes no register, in every state that
meets the invariant of the constants. The correction fires exactly when the quotient estimate is one low, as it does for
`4 * 5` with `m = 17` (R145). -/
def Obligations.MulmAnswersTheModularProduct : Prop :=
  (∀ (s : State) (a b : Nat), s.Inv → s.Ready → s.InRange a → s.InRange b →
    let m := s.modulus.toNat
    let k := s.modulusBits.toNat
    let tmp1 := if 2 ≤ k then a * b / 2 ^ (k - 2) else a * b * 2
    let q := tmp1 * s.mu.toNat / 2 ^ (k + 5)
    (m ≤ a * b - q * m ↔ q + 1 = a * b / m) ∧
    (a * b) % m < m ∧
    exec (.mulm a b) s = .next { s with
      response := some { result := BitVec.ofNat s.cfg.W ((a * b) % m), status := .ok, cause := 0 } }) ∧
  (4 * 5 / 2 ^ (bitlen 17 - 2) * barrettConstant 17 / 2 ^ (bitlen 17 + 5) = 0 ∧ 17 ≤ 4 * 5 ∧ 4 * 5 - 17 = 3)

/-- The laws of multiplication on in-range operands: commutativity, identity for `m > 1`, zero, and distributivity over
ADDM (R149). -/
def Obligations.MultiplicationLaws : Prop :=
  ∀ (s : State) (a b c : Nat), s.Inv → s.Ready → s.InRange a → s.InRange b → s.InRange c →
    (∃ p : Nat, s.Answers (.mulm a b) p ∧ s.Answers (.mulm b a) p) ∧
    (1 < s.modulus.toNat → s.Answers (.mulm a 1) a) ∧
    (¬ 1 < s.modulus.toNat → ¬ s.InRange 1) ∧
    s.Answers (.mulm a 0) 0 ∧
    (∃ sum p q r : Nat, s.Answers (.addm b c) sum ∧ s.Answers (.mulm a b) p ∧ s.Answers (.mulm a c) q ∧
      s.Answers (.mulm a sum) r ∧ s.Answers (.addm p q) r)

/-- The pseudo-commands on an in-range operand, each by its expansion: NEGM answers `(m - x) mod m`, DBLM `2x mod m` and
SQRM `x^2 mod m` (R68). -/
def Obligations.PseudoCommandsAnswer : Prop :=
  ∀ (s : State) (x : Nat), s.Inv → s.Ready → s.InRange x →
    let expandsTo := fun (l : AsmLine) (i : Instr) (v : Nat) =>
      (l.assemble s.cfg.W).map (fun c => decode c) = some i ∧ s.Answers i v
    expandsTo (.negm x) (.subm 0 x) ((s.modulus.toNat - x) % s.modulus.toNat) ∧
    expandsTo (.dblm x) (.addm x x) (2 * x % s.modulus.toNat) ∧
    expandsTo (.sqrm x) (.mulm x x) (x ^ 2 % s.modulus.toNat)

/-! ## The accessors (spec/44_accessors.md) -/

/-- The four accessors, on every path: a faulted engine answers its cause; an unconfigured one raises NOT_CONFIGURED (2);
otherwise the register's content is answered and nothing is written. The ports may hold any values
(R160, R161, R163, R165, R167). -/
def Obligations.AccessorsAnswerTheConstants : Prop :=
  ∀ (s : State) (a b : Nat) (i : Instr) (content : Word s.cfg.W), FitsPort s.cfg.W a → FitsPort s.cfg.W b →
    (i, content) ∈ [(.rdmod a b, s.modulus), (.rdbits a b, s.modulusBits), (.rdmu a b, s.mu), (.rdalpha a b, s.alpha)] →
    (s.faulted = true →
      exec i s = .next { s with response := some { result := 0, status := .fault, cause := s.cause } }) ∧
    (s.faulted = false → s.configured = false →
      exec i s = .next { s with
        faulted := true, cause := 2, response := some { result := 0, status := .fault, cause := 2 } }) ∧
    (s.faulted = false → s.configured = true →
      exec i s = .next { s with response := some { result := content, status := .ok, cause := 0 } })

/-- The ranges of the constant registers of a configured engine (R22, R23, R24). -/
def Obligations.ConstantRegistersStayInRange : Prop :=
  ∀ s : State, s.Inv → s.configured = true →
    1 ≤ s.modulusBits.toNat ∧ s.modulusBits.toNat ≤ s.cfg.W - 4 ∧
    4 ≤ s.alpha.toNat ∧ s.alpha.toNat ≤ s.cfg.W - 1 ∧
    2 ^ (s.modulusBits.toNat + 3) + 1 ≤ s.mu.toNat ∧ s.mu.toNat ≤ 2 ^ (s.modulusBits.toNat + 4)

/-- What the accessors answer agrees: RDALPHA is RDBITS + 3, RDBITS is the bit length of RDMOD, and RDMU is the Barrett
constant of the two; and after any number of steps without a reset an unfaulted engine still answers the same (R169). -/
def Obligations.AccessorLaws : Prop :=
  ∀ s : State, s.Inv → s.Ready →
    ∃ m k mu al : Nat, al = k + 3 ∧ k = bitlen m ∧ mu = 2 ^ (2 * k + 3) / m ∧
      s.Answers (.rdmod 0 0) m ∧ s.Answers (.rdbits 0 0) k ∧ s.Answers (.rdmu 0 0) mu ∧ s.Answers (.rdalpha 0 0) al ∧
      ∀ (n : Nat) (t : State), (∀ e ∈ s.arrivals, e.IsCommand) → run n s = .next t →
        t.faulted = false →
        t.Answers (.rdmod 0 0) m ∧ t.Answers (.rdbits 0 0) k ∧ t.Answers (.rdmu 0 0) mu ∧ t.Answers (.rdalpha 0 0) al

/-! ## Faults (spec/60_exceptions.md) -/

/-- The opcodes 0x8 to 0xF are the reserved ones: each raises ILLEGAL_OPCODE (1) whenever FAULTED = 0, configured or not,
and a faulted engine answers it like every other command (R64, R202). -/
def Obligations.ReservedOpcodesRaiseIllegalOpcode : Prop :=
  (∀ (W : Nat) (c : Command W),
    8 ≤ c.op.toNat ↔ ∃ low : BitVec 3, decode c = .reserved low c.a.toNat c.b.toNat) ∧
  ∀ (s : State) (low : BitVec 3) (a b : Nat), FitsPort s.cfg.W a → FitsPort s.cfg.W b →
    (s.faulted = false →
      exec (.reserved low a b) s = .next { s with
        faulted := true, cause := 1, response := some { result := 0, status := .fault, cause := 1 } }) ∧
    (s.faulted = true →
      exec (.reserved low a b) s =
        .next { s with response := some { result := 0, status := .fault, cause := s.cause } })

/-- A command other than CFG and the reserved opcodes, before CFG, raises NOT_CONFIGURED (2), whatever its operands
(R208). -/
def Obligations.UseBeforeCfgRaisesNotConfigured : Prop :=
  ∀ (s : State) (a b : Nat) (i : Instr), FitsPort s.cfg.W a → FitsPort s.cfg.W b →
    i ∈ [.addm a b, .subm a b, .mulm a b, .rdmod a b, .rdbits a b, .rdmu a b, .rdalpha a b] →
    s.faulted = false → s.configured = false →
    exec i s = .next { s with
      faulted := true, cause := 2, response := some { result := 0, status := .fault, cause := 2 } }

/-- While FAULTED = 1 every command is answered `0 [FAULT CAUSE]` and writes no register, so CAUSE keeps its code; and a
step leaves the faulted state only by a reset (R207). -/
def Obligations.FaultedEngineAnswersEveryCommandWithItsCause : Prop :=
  (∀ (s : State) (i : Instr), i.WellFormed s.cfg.W → s.faulted = true →
    exec i s = .next { s with response := some { result := 0, status := .fault, cause := s.cause } }) ∧
  (∀ s t : State, s.faulted = true → step s = .next t → t.faulted = false → s.arrivals.head? = some .reset)

/-- A command that raises a fault writes FAULTED and CAUSE and its FAULT response, and has no other effect; the code is
one of 1 to 5 (R200, R211). -/
def Obligations.RaisingAFaultWritesOnlyFaultedAndCause : Prop :=
  ∀ (s : State) (i : Instr) (t : State), exec i s = .next t → s.faulted = false → t.faulted = true →
    ∃ c : Cause, 1 ≤ c.code.toNat ∧ c.code.toNat ≤ 5 ∧
      t = { s with
        faulted := true, cause := c.code, response := some { result := 0, status := .fault, cause := c.code } }

/-- Only reset leaves the faulted state, and only reset clears CONFIGURED: whatever else a step does, both stay
(R25, R29, R212). -/
def Obligations.OnlyResetClearsAFault : Prop :=
  ∀ s t : State, step s = .next t →
    (s.faulted = true → t.faulted = false → s.arrivals.head? = some .reset) ∧
    (s.configured = true → t.configured = false → s.arrivals.head? = some .reset)

/-- Which fault a command raises, in the priority of R205: none when the engine is faulted, which then answers its cause;
otherwise each code of R201 under exactly its condition, and no fault under none of them. -/
def Obligations.EachFaultIsRaisedUnderItsCondition : Prop :=
  ∀ (s : State) (i : Instr) (t : State), s.Inv → exec i s = .next t →
    (s.faulted = true → t = { s with response := some { result := 0, status := .fault, cause := s.cause } }) ∧
    (s.faulted = false →
      (t.cause = 1 ↔ ∃ low a b, i = .reserved low a b) ∧
      (t.cause = 2 ↔ s.configured = false ∧ (∀ a b, i ≠ .cfg a b) ∧ (∀ low a b, i ≠ .reserved low a b)) ∧
      (t.cause = 3 ↔ s.configured = true ∧ ∃ a b, i = .cfg a b) ∧
      (t.cause = 4 ↔ s.configured = false ∧ ∃ a b, i = .cfg a b ∧ ¬ ValidModulus s.cfg.W a) ∧
      (t.cause = 5 ↔ s.configured = true ∧ s.cfg.checked = true ∧ i.Arithmetic ∧ s.PortOutOfRange i) ∧
      (t.cause = 0 ↔ t.faulted = false) ∧ t.cause.toNat < 6)

/-- CHECKED changes nothing but an out-of-range operand of ADDM, SUBM or MULM on a ready engine: every other instruction
does the same in both builds (R8, R203). -/
def Obligations.CheckedMattersOnlyForOutOfRangeOperands : Prop :=
  ∀ (s : State) (i : Instr) (c : Bool), i.WellFormed s.cfg.W →
    ¬ (i.Arithmetic ∧ s.Ready ∧ s.PortOutOfRange i) →
    ∃ t, exec i s = .next t ∧ exec i (s.withChecked c) = .next (t.withChecked c)

/-! ## Frames, invariants and whole-machine rules -/

/-- No response depends on a field the command ignores: port B of CFG, both ports of the accessors, and both ports and
the low opcode bits of a reserved opcode (R66). -/
def Obligations.IgnoredFieldsDoNotMatter : Prop :=
  ∀ (s : State) (a b a' b' : Nat) (low low' : BitVec 3),
    FitsPort s.cfg.W a → FitsPort s.cfg.W b → FitsPort s.cfg.W a' → FitsPort s.cfg.W b' →
    exec (.cfg a b) s = exec (.cfg a b') s ∧
    exec (.rdmod a b) s = exec (.rdmod a' b') s ∧
    exec (.rdbits a b) s = exec (.rdbits a' b') s ∧
    exec (.rdmu a b) s = exec (.rdmu a' b') s ∧
    exec (.rdalpha a b) s = exec (.rdalpha a' b') s ∧
    exec (.reserved low a b) s = exec (.reserved low' a' b') s

/-- A successful ADDM, SUBM, MULM or accessor leaves all state unchanged but the response, and repeating it, later or
beside other traffic, gives the same response. Draws are excepted: the operands are in range (R44). -/
def Obligations.SuccessfulCommandsWriteNoRegister : Prop :=
  ∀ (s : State) (i : Instr), s.Ready → i.Plain s → i.WellFormed s.cfg.W →
    ∃ v : Word s.cfg.W, ∀ (r : Option (Response s.cfg.W)) (ev : List (PortEvent s.cfg.W))
      (d : List (Delivery s.cfg.W)) (n : Nat),
      exec i { s with response := r, arrivals := ev, delivered := d, draws := n } =
        .next { s with
          response := some { result := v, status := .ok, cause := 0 }, arrivals := ev, delivered := d, draws := n }

/-- Once CONFIGURED = 1, no command writes MODULUS, MODULUS_BITS, MU, ALPHA or CONFIGURED, and a step writes them only when
it is a reset; a command that raises a fault writes FAULTED and CAUSE alone of the registers (R35). -/
def Obligations.ConfiguredRegistersAreImmutable : Prop :=
  (∀ (s : State) (i : Instr) (t : State), s.configured = true → exec i s = .next t →
    ∃ (f : Bool) (c : CauseCode) (r : Response s.cfg.W) (n : Nat),
      t = { s with faulted := f, cause := c, response := some r, draws := n }) ∧
  (∀ s t : State, s.configured = true → step s = .next t → s.arrivals.head? ≠ some .reset →
    ∃ (f : Bool) (c : CauseCode) (r : Option (Response s.cfg.W)) (ev : List (PortEvent s.cfg.W))
      (d : List (Delivery s.cfg.W)) (n : Nat),
      t = { s with faulted := f, cause := c, response := r, arrivals := ev, delivered := d, draws := n })

/-- The parameters never change: no step writes W or CHECKED (R8). -/
def Obligations.NoStepChangesTheParameters : Prop :=
  ∀ s t : State, step s = .next t → t.cfg = s.cfg

/-- The state after reset meets the invariant, at the model's parameters and at every legal width (R33, R240). -/
def Obligations.ResetStateMeetsTheInvariant : Prop :=
  State.reset.Inv ∧ ∀ c : Config, c.Legal → (State.resetFor c).Inv

/-- Every step keeps the invariant: the constants agree with the modulus while CONFIGURED = 1, CAUSE is NONE exactly
while FAULTED = 0, codes 6 and 7 never appear, and OPERAND_RANGE only in a checked build (R33, R34, R201). -/
def Obligations.EveryStepKeepsTheInvariant : Prop :=
  ∀ s t : State, s.Inv → step s = .next t → t.Inv

/-- Between a CFG and the next reset, any number of steps leaves the constant registers and CONFIGURED as they are
(R35). -/
def Obligations.ConstantsLastUntilReset : Prop :=
  ∀ (n : Nat) (s t : State), s.configured = true → (∀ e ∈ s.arrivals, e.IsCommand) →
    run n s = .next t →
    ∃ (f : Bool) (c : CauseCode) (r : Option (Response s.cfg.W)) (ev : List (PortEvent s.cfg.W))
      (d : List (Delivery s.cfg.W)) (k : Nat),
      t = { s with faulted := f, cause := c, response := r, arrivals := ev, delivered := d, draws := k }

/-- A fault lasts until reset: over any number of steps without a reset, no register changes, no draw is made, and every
response delivered is `0 [FAULT CAUSE]` with the cause of the first fault (R207, R212). -/
def Obligations.FaultLastsUntilReset : Prop :=
  ∀ (n : Nat) (s t : State), s.faulted = true → (∀ e ∈ s.arrivals, e.IsCommand) →
    run n s = .next t →
    ¬ t.NormalEnd ∧
    ∃ (r : Option (Response s.cfg.W)) (d : List (Delivery s.cfg.W)),
      t = { s with response := r, arrivals := s.arrivals.drop n, delivered := s.delivered ++ d } ∧
      d.map (fun x => x.host) = issuers (s.arrivals.take n) ∧
      ∀ x ∈ d, x.response = { result := 0, status := .fault, cause := s.cause }

/-- The machine performs all that arrives, one event a step, without stopping, in the total order of the port: every
command is answered once, and the responses reach the hosts in that order (R31, R42). The arrivals
and the deliveries are the model's own fields (log entries 4 and 5). -/
def Obligations.AllArrivalsArePerformedInOrder : Prop :=
  ∀ s : State, ∃ t : State, run s.arrivals.length s = .next t ∧
    t.cfg = s.cfg ∧ t.arrivals = [] ∧
    t.delivered.map (fun x => x.host) = s.delivered.map (fun x => x.host) ++ issuers s.arrivals

/-- Interleaving independence: on a ready engine, two interleavings of the same hosts' plain commands (ADDM, SUBM, MULM
with in-range operands, accessors) leave the same registers, and every host receives the same responses, in its own
order (R46). The arrivals and the deliveries are the model's own fields (log entries 4 and 5). -/
def Obligations.ResponsesDoNotDependOnTheInterleaving : Prop :=
  ∀ (s : State) (l l' : List (PortEvent s.cfg.W)), s.Ready →
    (∀ e ∈ l, PortEvent.Plain s e) → (∀ e ∈ l', PortEvent.Plain s e) →
    (∀ host, commandsOf host l = commandsOf host l') →
    ∃ (r r' : Option (Response s.cfg.W)) (d d' : List (Delivery s.cfg.W)),
      run l.length { s with arrivals := l } =
        .next { s with response := r, arrivals := [], delivered := d } ∧
      run l'.length { s with arrivals := l' } =
        .next { s with response := r', arrivals := [], delivered := d' } ∧
      ∀ host, receivedBy host d = receivedBy host d'
end

