-- ==== Sys2Proof/Laws/Decode.lean ====
section
/-! SUPPORT. The small lemmas of the decoder: what each opcode decodes to, and that a decoded command is well-formed. -/

namespace Sys2Proof

variable {W : Nat} {c : Command W}

/-- An opcode is one of the eight of the map, or reserved (R61). -/
theorem opcode_cases (op : Opcode) :
    op = 0x0 ∨ op = 0x1 ∨ op = 0x2 ∨ op = 0x3 ∨ op = 0x4 ∨ op = 0x5 ∨ op = 0x6 ∨ op = 0x7 ∨ 8 ≤ op.toNat := by
  revert op
  decide

theorem decode_of_cfg (h : c.op = 0x0) : decode c = .cfg c.a.toNat c.b.toNat := by
  simp [decode, h]

theorem decode_of_addm (h : c.op = 0x1) : decode c = .addm c.a.toNat c.b.toNat := by
  simp [decode, h]

theorem decode_of_subm (h : c.op = 0x2) : decode c = .subm c.a.toNat c.b.toNat := by
  simp [decode, h]

theorem decode_of_mulm (h : c.op = 0x3) : decode c = .mulm c.a.toNat c.b.toNat := by
  simp [decode, h]

theorem decode_of_rdmod (h : c.op = 0x4) : decode c = .rdmod c.a.toNat c.b.toNat := by
  simp [decode, h]

theorem decode_of_rdbits (h : c.op = 0x5) : decode c = .rdbits c.a.toNat c.b.toNat := by
  simp [decode, h]

theorem decode_of_rdmu (h : c.op = 0x6) : decode c = .rdmu c.a.toNat c.b.toNat := by
  simp [decode, h]

theorem decode_of_rdalpha (h : c.op = 0x7) : decode c = .rdalpha c.a.toNat c.b.toNat := by
  simp [decode, h]

/-- A reserved opcode decodes to `reserved` with its low bits (R64). -/
theorem decode_of_reserved (h : 8 ≤ c.op.toNat) :
    decode c = .reserved (c.op.setWidth 3) c.a.toNat c.b.toNat := by
  unfold decode
  split <;> first | rfl | omega

/-- The low bits of a reserved opcode give it back. -/
theorem reserved_opcode (op : Opcode) (h : 8 ≤ op.toNat) : 0x8 + (op.setWidth 3).setWidth 4 = op := by
  revert op
  decide

/-- The operands of a decoded command are W-bit values. -/
theorem decode_wellFormed (c : Command W) : (decode c).WellFormed W := by
  unfold decode
  split <;> exact ⟨c.a.isLt, c.b.isLt⟩

end Sys2Proof
end

