-- ==== Sys2Proof/Laws/State.lean ====
section
/-! SUPPORT. One lemma for each field of State under each update of the machine, true by rfl, so that no later proof unfolds
a record update. -/

namespace Sys2Proof.Machine

/-! ### Driving a response writes the response port alone (R13, R31). -/

@[simp] theorem State.respond_cfg (s : State) (v : Word s.cfg.W) (st : Status) (c : CauseCode) :
    (s.respond v st c).cfg = s.cfg := rfl
@[simp] theorem State.respond_modulus (s : State) (v : Word s.cfg.W) (st : Status) (c : CauseCode) :
    (s.respond v st c).modulus = s.modulus := rfl
@[simp] theorem State.respond_modulusBits (s : State) (v : Word s.cfg.W) (st : Status) (c : CauseCode) :
    (s.respond v st c).modulusBits = s.modulusBits := rfl
@[simp] theorem State.respond_mu (s : State) (v : Word s.cfg.W) (st : Status) (c : CauseCode) :
    (s.respond v st c).mu = s.mu := rfl
@[simp] theorem State.respond_alpha (s : State) (v : Word s.cfg.W) (st : Status) (c : CauseCode) :
    (s.respond v st c).alpha = s.alpha := rfl
@[simp] theorem State.respond_configured (s : State) (v : Word s.cfg.W) (st : Status) (c : CauseCode) :
    (s.respond v st c).configured = s.configured := rfl
@[simp] theorem State.respond_faulted (s : State) (v : Word s.cfg.W) (st : Status) (c : CauseCode) :
    (s.respond v st c).faulted = s.faulted := rfl
@[simp] theorem State.respond_cause (s : State) (v : Word s.cfg.W) (st : Status) (c : CauseCode) :
    (s.respond v st c).cause = s.cause := rfl
@[simp] theorem State.respond_response (s : State) (v : Word s.cfg.W) (st : Status) (c : CauseCode) :
    (s.respond v st c).response = some { result := v, status := st, cause := c } := rfl
@[simp] theorem State.respond_arrivals (s : State) (v : Word s.cfg.W) (st : Status) (c : CauseCode) :
    (s.respond v st c).arrivals = s.arrivals := rfl
@[simp] theorem State.respond_delivered (s : State) (v : Word s.cfg.W) (st : Status) (c : CauseCode) :
    (s.respond v st c).delivered = s.delivered := rfl
@[simp] theorem State.respond_draws (s : State) (v : Word s.cfg.W) (st : Status) (c : CauseCode) :
    (s.respond v st c).draws = s.draws := rfl

/-! ### A performed command's answer writes the response port alone (R31). -/

@[simp] theorem State.respondOk_cfg (s : State) (v : Word s.cfg.W) : (s.respondOk v).cfg = s.cfg := rfl
@[simp] theorem State.respondOk_modulus (s : State) (v : Word s.cfg.W) : (s.respondOk v).modulus = s.modulus := rfl
@[simp] theorem State.respondOk_modulusBits (s : State) (v : Word s.cfg.W) :
    (s.respondOk v).modulusBits = s.modulusBits := rfl
@[simp] theorem State.respondOk_mu (s : State) (v : Word s.cfg.W) : (s.respondOk v).mu = s.mu := rfl
@[simp] theorem State.respondOk_alpha (s : State) (v : Word s.cfg.W) : (s.respondOk v).alpha = s.alpha := rfl
@[simp] theorem State.respondOk_configured (s : State) (v : Word s.cfg.W) :
    (s.respondOk v).configured = s.configured := rfl
@[simp] theorem State.respondOk_faulted (s : State) (v : Word s.cfg.W) : (s.respondOk v).faulted = s.faulted := rfl
@[simp] theorem State.respondOk_cause (s : State) (v : Word s.cfg.W) : (s.respondOk v).cause = s.cause := rfl
@[simp] theorem State.respondOk_response (s : State) (v : Word s.cfg.W) :
    (s.respondOk v).response = some { result := v, status := .ok, cause := 0 } := rfl
@[simp] theorem State.respondOk_arrivals (s : State) (v : Word s.cfg.W) : (s.respondOk v).arrivals = s.arrivals := rfl
@[simp] theorem State.respondOk_delivered (s : State) (v : Word s.cfg.W) :
    (s.respondOk v).delivered = s.delivered := rfl
@[simp] theorem State.respondOk_draws (s : State) (v : Word s.cfg.W) : (s.respondOk v).draws = s.draws := rfl

/-! ### Raising a fault writes FAULTED, CAUSE and the response port alone (R200). -/

@[simp] theorem State.raiseFault_cfg (s : State) (c : Cause) : (s.raiseFault c).cfg = s.cfg := rfl
@[simp] theorem State.raiseFault_modulus (s : State) (c : Cause) : (s.raiseFault c).modulus = s.modulus := rfl
@[simp] theorem State.raiseFault_modulusBits (s : State) (c : Cause) :
    (s.raiseFault c).modulusBits = s.modulusBits := rfl
@[simp] theorem State.raiseFault_mu (s : State) (c : Cause) : (s.raiseFault c).mu = s.mu := rfl
@[simp] theorem State.raiseFault_alpha (s : State) (c : Cause) : (s.raiseFault c).alpha = s.alpha := rfl
@[simp] theorem State.raiseFault_configured (s : State) (c : Cause) :
    (s.raiseFault c).configured = s.configured := rfl
@[simp] theorem State.raiseFault_faulted (s : State) (c : Cause) : (s.raiseFault c).faulted = true := rfl
@[simp] theorem State.raiseFault_cause (s : State) (c : Cause) : (s.raiseFault c).cause = c.code := rfl
@[simp] theorem State.raiseFault_response (s : State) (c : Cause) :
    (s.raiseFault c).response = some { result := 0, status := .fault, cause := c.code } := rfl
@[simp] theorem State.raiseFault_arrivals (s : State) (c : Cause) : (s.raiseFault c).arrivals = s.arrivals := rfl
@[simp] theorem State.raiseFault_delivered (s : State) (c : Cause) : (s.raiseFault c).delivered = s.delivered := rfl
@[simp] theorem State.raiseFault_draws (s : State) (c : Cause) : (s.raiseFault c).draws = s.draws := rfl

/-! ### A faulted engine's answer writes the response port alone (R207). -/

@[simp] theorem State.answerFaulted_cfg (s : State) : s.answerFaulted.cfg = s.cfg := rfl
@[simp] theorem State.answerFaulted_modulus (s : State) : s.answerFaulted.modulus = s.modulus := rfl
@[simp] theorem State.answerFaulted_modulusBits (s : State) : s.answerFaulted.modulusBits = s.modulusBits := rfl
@[simp] theorem State.answerFaulted_mu (s : State) : s.answerFaulted.mu = s.mu := rfl
@[simp] theorem State.answerFaulted_alpha (s : State) : s.answerFaulted.alpha = s.alpha := rfl
@[simp] theorem State.answerFaulted_configured (s : State) : s.answerFaulted.configured = s.configured := rfl
@[simp] theorem State.answerFaulted_faulted (s : State) : s.answerFaulted.faulted = s.faulted := rfl
@[simp] theorem State.answerFaulted_cause (s : State) : s.answerFaulted.cause = s.cause := rfl
@[simp] theorem State.answerFaulted_response (s : State) :
    s.answerFaulted.response = some { result := 0, status := .fault, cause := s.cause } := rfl
@[simp] theorem State.answerFaulted_arrivals (s : State) : s.answerFaulted.arrivals = s.arrivals := rfl
@[simp] theorem State.answerFaulted_delivered (s : State) : s.answerFaulted.delivered = s.delivered := rfl
@[simp] theorem State.answerFaulted_draws (s : State) : s.answerFaulted.draws = s.draws := rfl

/-! ### A draw writes the response port and the running number of the draws alone (R206). -/

@[simp] theorem State.respondDraw_cfg (s : State) : s.respondDraw.cfg = s.cfg := rfl
@[simp] theorem State.respondDraw_modulus (s : State) : s.respondDraw.modulus = s.modulus := rfl
@[simp] theorem State.respondDraw_modulusBits (s : State) : s.respondDraw.modulusBits = s.modulusBits := rfl
@[simp] theorem State.respondDraw_mu (s : State) : s.respondDraw.mu = s.mu := rfl
@[simp] theorem State.respondDraw_alpha (s : State) : s.respondDraw.alpha = s.alpha := rfl
@[simp] theorem State.respondDraw_configured (s : State) : s.respondDraw.configured = s.configured := rfl
@[simp] theorem State.respondDraw_faulted (s : State) : s.respondDraw.faulted = s.faulted := rfl
@[simp] theorem State.respondDraw_cause (s : State) : s.respondDraw.cause = s.cause := rfl
@[simp] theorem State.respondDraw_response (s : State) :
    s.respondDraw.response = some { result := Config.freeDraw s.cfg.W s.draws, status := .ok, cause := 0 } := rfl
@[simp] theorem State.respondDraw_arrivals (s : State) : s.respondDraw.arrivals = s.arrivals := rfl
@[simp] theorem State.respondDraw_delivered (s : State) : s.respondDraw.delivered = s.delivered := rfl
@[simp] theorem State.respondDraw_draws (s : State) : s.respondDraw.draws = s.draws + 1 := rfl

/-! ### Reset writes every register and the response port, and nothing else (R240). -/

@[simp] theorem State.resetAction_cfg (s : State) : s.resetAction.cfg = s.cfg := rfl
@[simp] theorem State.resetAction_modulus (s : State) : s.resetAction.modulus = 0 := rfl
@[simp] theorem State.resetAction_modulusBits (s : State) : s.resetAction.modulusBits = 0 := rfl
@[simp] theorem State.resetAction_mu (s : State) : s.resetAction.mu = 0 := rfl
@[simp] theorem State.resetAction_alpha (s : State) : s.resetAction.alpha = 0 := rfl
@[simp] theorem State.resetAction_configured (s : State) : s.resetAction.configured = false := rfl
@[simp] theorem State.resetAction_faulted (s : State) : s.resetAction.faulted = false := rfl
@[simp] theorem State.resetAction_cause (s : State) : s.resetAction.cause = 0 := rfl
@[simp] theorem State.resetAction_response (s : State) : s.resetAction.response = none := rfl
@[simp] theorem State.resetAction_arrivals (s : State) : s.resetAction.arrivals = s.arrivals := rfl
@[simp] theorem State.resetAction_delivered (s : State) : s.resetAction.delivered = s.delivered := rfl
@[simp] theorem State.resetAction_draws (s : State) : s.resetAction.draws = s.draws := rfl

/-! ### The writes of a successful CFG (R101). -/

@[simp] theorem State.completeCfg_cfg (s : State) (m : Word s.cfg.W) : (s.completeCfg m).cfg = s.cfg := rfl
@[simp] theorem State.completeCfg_modulus (s : State) (m : Word s.cfg.W) : (s.completeCfg m).modulus = m := rfl
@[simp] theorem State.completeCfg_modulusBits (s : State) (m : Word s.cfg.W) :
    (s.completeCfg m).modulusBits = BitVec.ofNat s.cfg.W (bitlen m.toNat) := rfl
@[simp] theorem State.completeCfg_mu (s : State) (m : Word s.cfg.W) :
    (s.completeCfg m).mu = BitVec.ofNat s.cfg.W (barrettConstant m.toNat) := rfl
@[simp] theorem State.completeCfg_alpha (s : State) (m : Word s.cfg.W) :
    (s.completeCfg m).alpha = BitVec.ofNat s.cfg.W (bitlen m.toNat + 3) := rfl
@[simp] theorem State.completeCfg_configured (s : State) (m : Word s.cfg.W) :
    (s.completeCfg m).configured = true := rfl
@[simp] theorem State.completeCfg_faulted (s : State) (m : Word s.cfg.W) :
    (s.completeCfg m).faulted = s.faulted := rfl
@[simp] theorem State.completeCfg_cause (s : State) (m : Word s.cfg.W) : (s.completeCfg m).cause = s.cause := rfl
@[simp] theorem State.completeCfg_response (s : State) (m : Word s.cfg.W) :
    (s.completeCfg m).response = some { result := 0, status := .ok, cause := 0 } := rfl
@[simp] theorem State.completeCfg_arrivals (s : State) (m : Word s.cfg.W) :
    (s.completeCfg m).arrivals = s.arrivals := rfl
@[simp] theorem State.completeCfg_delivered (s : State) (m : Word s.cfg.W) :
    (s.completeCfg m).delivered = s.delivered := rfl
@[simp] theorem State.completeCfg_draws (s : State) (m : Word s.cfg.W) : (s.completeCfg m).draws = s.draws := rfl

/-! ### A delivery adds to what the hosts hold, and touches nothing of the block (R42). -/

@[simp] theorem State.deliver_cfg (s : State) (host : Nat) : (s.deliver host).cfg = s.cfg := rfl
@[simp] theorem State.deliver_modulus (s : State) (host : Nat) : (s.deliver host).modulus = s.modulus := rfl
@[simp] theorem State.deliver_modulusBits (s : State) (host : Nat) :
    (s.deliver host).modulusBits = s.modulusBits := rfl
@[simp] theorem State.deliver_mu (s : State) (host : Nat) : (s.deliver host).mu = s.mu := rfl
@[simp] theorem State.deliver_alpha (s : State) (host : Nat) : (s.deliver host).alpha = s.alpha := rfl
@[simp] theorem State.deliver_configured (s : State) (host : Nat) : (s.deliver host).configured = s.configured := rfl
@[simp] theorem State.deliver_faulted (s : State) (host : Nat) : (s.deliver host).faulted = s.faulted := rfl
@[simp] theorem State.deliver_cause (s : State) (host : Nat) : (s.deliver host).cause = s.cause := rfl
@[simp] theorem State.deliver_response (s : State) (host : Nat) : (s.deliver host).response = s.response := rfl
@[simp] theorem State.deliver_arrivals (s : State) (host : Nat) : (s.deliver host).arrivals = s.arrivals := rfl
@[simp] theorem State.deliver_delivered (s : State) (host : Nat) :
    (s.deliver host).delivered = s.delivered ++ s.response.toList.map fun r => { host := host, response := r } := rfl
@[simp] theorem State.deliver_draws (s : State) (host : Nat) : (s.deliver host).draws = s.draws := rfl

/-! ### An arrival is added behind what already waits (R42). -/

@[simp] theorem State.arrive_cfg (s : State) (e : PortEvent s.cfg.W) : (s.arrive e).cfg = s.cfg := rfl
@[simp] theorem State.arrive_modulus (s : State) (e : PortEvent s.cfg.W) : (s.arrive e).modulus = s.modulus := rfl
@[simp] theorem State.arrive_modulusBits (s : State) (e : PortEvent s.cfg.W) :
    (s.arrive e).modulusBits = s.modulusBits := rfl
@[simp] theorem State.arrive_mu (s : State) (e : PortEvent s.cfg.W) : (s.arrive e).mu = s.mu := rfl
@[simp] theorem State.arrive_alpha (s : State) (e : PortEvent s.cfg.W) : (s.arrive e).alpha = s.alpha := rfl
@[simp] theorem State.arrive_configured (s : State) (e : PortEvent s.cfg.W) :
    (s.arrive e).configured = s.configured := rfl
@[simp] theorem State.arrive_faulted (s : State) (e : PortEvent s.cfg.W) : (s.arrive e).faulted = s.faulted := rfl
@[simp] theorem State.arrive_cause (s : State) (e : PortEvent s.cfg.W) : (s.arrive e).cause = s.cause := rfl
@[simp] theorem State.arrive_response (s : State) (e : PortEvent s.cfg.W) : (s.arrive e).response = s.response := rfl
@[simp] theorem State.arrive_arrivals (s : State) (e : PortEvent s.cfg.W) :
    (s.arrive e).arrivals = s.arrivals ++ [e] := rfl
@[simp] theorem State.arrive_delivered (s : State) (e : PortEvent s.cfg.W) :
    (s.arrive e).delivered = s.delivered := rfl
@[simp] theorem State.arrive_draws (s : State) (e : PortEvent s.cfg.W) : (s.arrive e).draws = s.draws := rfl

end Sys2Proof.Machine
end

