-- ==== Sys2Proof/Laws/Ops.lean ====
section
/-! SUPPORT. What each shared operation can do, said once: its value on each path, and one inversion lemma for each
operation with several paths. -/

namespace Sys2Proof.Machine

variable {s t : State} {a b : Nat}

/-! ### Operand ports -/

/-- Operands that fit reach the action. -/
theorem onPorts_of_fits {act : Word s.cfg.W → Word s.cfg.W → State} (ha : FitsPort s.cfg.W a)
    (hb : FitsPort s.cfg.W b) :
    s.onPorts a b act = .next (act (BitVec.ofNat s.cfg.W a) (BitVec.ofNat s.cfg.W b)) :=
  if_pos ⟨ha, hb⟩

/-- Operands that do not fit make no command. -/
theorem onPorts_of_not_fits {act : Word s.cfg.W → Word s.cfg.W → State}
    (h : ¬ (FitsPort s.cfg.W a ∧ FitsPort s.cfg.W b)) : s.onPorts a b act = .refused .operandTooWide :=
  if_neg h

/-- If the ports answer a next state, the operands fit and the state is the action's. -/
theorem onPorts_next {act : Word s.cfg.W → Word s.cfg.W → State} (h : s.onPorts a b act = .next t) :
    (FitsPort s.cfg.W a ∧ FitsPort s.cfg.W b) ∧ t = act (BitVec.ofNat s.cfg.W a) (BitVec.ofNat s.cfg.W b) := by
  unfold State.onPorts at h
  split at h
  · next hf => exact ⟨hf, by injection h with h; exact h.symm⟩
  · cases h

/-- A number that fits the port is read back from it. -/
theorem toNat_port {W v : Nat} (h : FitsPort W v) : (BitVec.ofNat W v).toNat = v := by
  rw [BitVec.toNat_ofNat, Nat.mod_eq_of_lt h]

/-! ### The operand gate of ADDM, SUBM and MULM (R204) -/

variable {x y v : Word s.cfg.W}

theorem gate_of_faulted (hf : s.faulted = true) : s.gate x y v = s.answerFaulted := by
  simp [State.gate, hf]

theorem gate_of_unconfigured (hf : s.faulted = false) (hc : s.configured = false) :
    s.gate x y v = s.raiseFault .notConfigured := by
  simp [State.gate, hf, hc]

theorem gate_of_outOfRange_checked (hf : s.faulted = false) (hc : s.configured = true) (ho : s.OutOfRange x y)
    (hk : s.cfg.checked = true) : s.gate x y v = s.raiseFault .operandRange := by
  simp only [State.gate, hf, hc, hk]
  exact if_pos ho

theorem gate_of_outOfRange_unchecked (hf : s.faulted = false) (hc : s.configured = true) (ho : s.OutOfRange x y)
    (hk : s.cfg.checked = false) : s.gate x y v = s.respondDraw := by
  simp only [State.gate, hf, hc, hk]
  exact if_pos ho

theorem gate_of_inRange (hf : s.faulted = false) (hc : s.configured = true) (ho : ¬ s.OutOfRange x y) :
    s.gate x y v = s.respondOk v := by
  simp only [State.gate, hf, hc]
  exact if_neg ho

/-- Everything the gate can do. -/
theorem gate_cases (s : State) (x y v : Word s.cfg.W) :
    (s.faulted = true ∧ s.gate x y v = s.answerFaulted) ∨
    (s.faulted = false ∧ s.configured = false ∧ s.gate x y v = s.raiseFault .notConfigured) ∨
    (s.faulted = false ∧ s.configured = true ∧ s.OutOfRange x y ∧ s.cfg.checked = true ∧
      s.gate x y v = s.raiseFault .operandRange) ∨
    (s.faulted = false ∧ s.configured = true ∧ s.OutOfRange x y ∧ s.cfg.checked = false ∧
      s.gate x y v = s.respondDraw) ∨
    (s.faulted = false ∧ s.configured = true ∧ ¬ s.OutOfRange x y ∧ s.gate x y v = s.respondOk v) := by
  cases hf : s.faulted with
  | true => exact .inl ⟨rfl, gate_of_faulted hf⟩
  | false =>
    cases hc : s.configured with
    | false => exact .inr (.inl ⟨rfl, rfl, gate_of_unconfigured hf hc⟩)
    | true =>
      by_cases ho : s.OutOfRange x y
      · cases hk : s.cfg.checked with
        | true => exact .inr (.inr (.inl ⟨rfl, rfl, ho, rfl, gate_of_outOfRange_checked hf hc ho hk⟩))
        | false => exact .inr (.inr (.inr (.inl ⟨rfl, rfl, ho, rfl, gate_of_outOfRange_unchecked hf hc ho hk⟩)))
      · exact .inr (.inr (.inr (.inr ⟨rfl, rfl, ho, gate_of_inRange hf hc ho⟩)))

/-! ### The accessors' prologue (R160) -/

theorem readConstant_of_faulted (hf : s.faulted = true) : s.readConstant v = s.answerFaulted := by
  simp [State.readConstant, hf]

theorem readConstant_of_unconfigured (hf : s.faulted = false) (hc : s.configured = false) :
    s.readConstant v = s.raiseFault .notConfigured := by
  simp [State.readConstant, hf, hc]

theorem readConstant_of_ready (hf : s.faulted = false) (hc : s.configured = true) :
    s.readConstant v = s.respondOk v := by
  simp [State.readConstant, hf, hc]

/-- Everything an accessor can do. -/
theorem readConstant_cases (s : State) (v : Word s.cfg.W) :
    (s.faulted = true ∧ s.readConstant v = s.answerFaulted) ∨
    (s.faulted = false ∧ s.configured = false ∧ s.readConstant v = s.raiseFault .notConfigured) ∨
    (s.faulted = false ∧ s.configured = true ∧ s.readConstant v = s.respondOk v) := by
  cases hf : s.faulted with
  | true => exact .inl ⟨rfl, readConstant_of_faulted hf⟩
  | false =>
    cases hc : s.configured with
    | false => exact .inr (.inl ⟨rfl, rfl, readConstant_of_unconfigured hf hc⟩)
    | true => exact .inr (.inr ⟨rfl, rfl, readConstant_of_ready hf hc⟩)

/-! ### CFG (R101) -/

theorem configure_of_faulted (hf : s.faulted = true) : s.configure x = s.answerFaulted := by
  simp [State.configure, hf]

theorem configure_of_configured (hf : s.faulted = false) (hc : s.configured = true) :
    s.configure x = s.raiseFault .alreadyConfigured := by
  simp [State.configure, hf, hc]

theorem configure_of_invalid (hf : s.faulted = false) (hc : s.configured = false)
    (hv : ¬ ValidModulus s.cfg.W x.toNat) : s.configure x = s.raiseFault .invalidModulus := by
  simp only [State.configure, hf, hc]
  exact if_pos hv

theorem configure_of_valid (hf : s.faulted = false) (hc : s.configured = false)
    (hv : ValidModulus s.cfg.W x.toNat) : s.configure x = s.completeCfg x := by
  simp only [State.configure, hf, hc]
  exact if_neg (not_not_intro hv)

/-- Everything CFG can do. -/
theorem configure_cases (s : State) (x : Word s.cfg.W) :
    (s.faulted = true ∧ s.configure x = s.answerFaulted) ∨
    (s.faulted = false ∧ s.configured = true ∧ s.configure x = s.raiseFault .alreadyConfigured) ∨
    (s.faulted = false ∧ s.configured = false ∧ ¬ ValidModulus s.cfg.W x.toNat ∧
      s.configure x = s.raiseFault .invalidModulus) ∨
    (s.faulted = false ∧ s.configured = false ∧ ValidModulus s.cfg.W x.toNat ∧
      s.configure x = s.completeCfg x) := by
  cases hf : s.faulted with
  | true => exact .inl ⟨rfl, configure_of_faulted hf⟩
  | false =>
    cases hc : s.configured with
    | true => exact .inr (.inl ⟨rfl, rfl, configure_of_configured hf hc⟩)
    | false =>
      by_cases hv : ValidModulus s.cfg.W x.toNat
      · exact .inr (.inr (.inr ⟨rfl, rfl, hv, configure_of_valid hf hc hv⟩))
      · exact .inr (.inr (.inl ⟨rfl, rfl, hv, configure_of_invalid hf hc hv⟩))

/-! ### The reserved opcodes (R202) -/

theorem refuseOpcode_of_faulted (hf : s.faulted = true) : s.refuseOpcode = s.answerFaulted := by
  simp [State.refuseOpcode, hf]

theorem refuseOpcode_of_unfaulted (hf : s.faulted = false) : s.refuseOpcode = s.raiseFault .illegalOpcode := by
  simp [State.refuseOpcode, hf]

/-! ### Delivery -/

/-- A driven response goes to the host. -/
theorem deliver_of_response {r : Response s.cfg.W} (host : Nat) (h : s.response = some r) :
    s.deliver host = { s with delivered := s.delivered ++ [{ host := host, response := r }] } := by
  rw [State.deliver, h]
  rfl

@[simp] theorem deliverTo_next (host : Nat) (t : State) : deliverTo host (.next t) = .next (t.deliver host) := rfl

/-- If a delivery answers a next state, the command did. -/
theorem deliverTo_next_cases {host : Nat} {o : Host.Outcome State Fault Refusal} (h : deliverTo host o = .next t) :
    ∃ u, o = .next u ∧ t = u.deliver host := by
  cases o with
  | next u => exact ⟨u, rfl, by injection h with h; exact h.symm⟩
  | fault r => cases h
  | refused r => cases h

/-! ### Codes -/

@[simp] theorem noCause_eq : noCause = 0 := rfl

theorem code_toNat_pos (c : Cause) : 1 ≤ c.code.toNat := by cases c <;> decide

theorem code_toNat_le (c : Cause) : c.code.toNat ≤ 5 := by cases c <;> decide

theorem code_inj {c d : Cause} : c.code = d.code ↔ c = d := by cases c <;> cases d <;> decide

end Sys2Proof.Machine
end

