-- ==== Sys2Proof/Laws/Exec.lean ====
section
/-! SUPPORT. What `exec` and `step` can do, said once; every invariant is a case analysis on these. -/

namespace Sys2Proof.Machine

/-- All the ways an instruction can end in a next state. -/
inductive ExecCase (s : State) (i : Instr) : State → Prop where
  /-- A faulted engine answers its cause (R207). -/
  | faulted (hf : s.faulted = true) : ExecCase s i s.answerFaulted
  /-- A fault is raised (R200); OPERAND_RANGE only in a checked build. -/
  | raised (hf : s.faulted = false) (c : Cause) (hc : c = .operandRange → s.cfg.checked = true) :
      ExecCase s i (s.raiseFault c)
  /-- A CFG with a valid modulus succeeds (R101). -/
  | configured (hf : s.faulted = false) (hc : s.configured = false) (a b : Nat) (hi : i = .cfg a b)
      (hv : ValidModulus s.cfg.W a) : ExecCase s i (s.completeCfg (BitVec.ofNat s.cfg.W a))
  /-- An arithmetic command or an accessor is performed and writes no register (R44). -/
  | performed (hf : s.faulted = false) (hc : s.configured = true) (v : Word s.cfg.W) : ExecCase s i (s.respondOk v)
  /-- An out-of-range operand in an optimized build is answered with a draw (R206). -/
  | drawn (hf : s.faulted = false) (hc : s.configured = true) (hk : s.cfg.checked = false) :
      ExecCase s i s.respondDraw

/-- The operand gate is one of those ways. -/
theorem execCase_gate (s : State) (i : Instr) (x y v : Word s.cfg.W) : ExecCase s i (s.gate x y v) := by
  obtain ⟨hf, e⟩ | ⟨hf, -, e⟩ | ⟨hf, -, -, hk, e⟩ | ⟨hf, hc, -, hk, e⟩ | ⟨hf, hc, -, e⟩ := gate_cases s x y v <;> rw [e]
  · exact .faulted hf
  · exact .raised hf _ (by simp)
  · exact .raised hf _ fun _ => hk
  · exact .drawn hf hc hk
  · exact .performed hf hc v

/-- The accessors' prologue is one of those ways. -/
theorem execCase_readConstant (s : State) (i : Instr) (v : Word s.cfg.W) : ExecCase s i (s.readConstant v) := by
  obtain ⟨hf, e⟩ | ⟨hf, -, e⟩ | ⟨hf, hc, e⟩ := readConstant_cases s v <;> rw [e]
  · exact .faulted hf
  · exact .raised hf _ (by simp)
  · exact .performed hf hc v

/-- CFG is one of those ways. -/
theorem execCase_configure (s : State) (a b : Nat) (ha : FitsPort s.cfg.W a) :
    ExecCase s (.cfg a b) (s.configure (BitVec.ofNat s.cfg.W a)) := by
  obtain ⟨hf, e⟩ | ⟨hf, -, e⟩ | ⟨hf, -, -, e⟩ | ⟨hf, hc, hv, e⟩ := configure_cases s (BitVec.ofNat s.cfg.W a) <;> rw [e]
  · exact .faulted hf
  · exact .raised hf _ (by simp)
  · exact .raised hf _ (by simp)
  · rw [toNat_port ha] at hv
    exact .configured hf hc a b rfl hv

/-- A reserved opcode is one of those ways. -/
theorem execCase_refuseOpcode (s : State) (i : Instr) : ExecCase s i s.refuseOpcode := by
  unfold State.refuseOpcode
  split
  · next hf => exact .faulted hf
  · next hf => exact .raised (by simpa using hf) _ (by simp)

/-! ### One lemma for each instruction: what it is, for operands that fit the ports -/

variable {s t : State} {a b : Nat}

theorem exec_cfg (hw : (Instr.cfg a b).WellFormed s.cfg.W) :
    exec (.cfg a b) s = .next (s.configure (BitVec.ofNat s.cfg.W a)) := by
  rw [exec, execCfg, onPorts_of_fits (a := a) (b := b) hw.1 hw.2]

theorem exec_addm (hw : (Instr.addm a b).WellFormed s.cfg.W) :
    exec (.addm a b) s = .next (s.gate (BitVec.ofNat s.cfg.W a) (BitVec.ofNat s.cfg.W b)
      (addModFast s.modulus (BitVec.ofNat s.cfg.W a) (BitVec.ofNat s.cfg.W b))) := by
  rw [exec, execAddm, onPorts_of_fits (a := a) (b := b) hw.1 hw.2]

theorem exec_subm (hw : (Instr.subm a b).WellFormed s.cfg.W) :
    exec (.subm a b) s = .next (s.gate (BitVec.ofNat s.cfg.W a) (BitVec.ofNat s.cfg.W b)
      (subModFast s.modulus (BitVec.ofNat s.cfg.W a) (BitVec.ofNat s.cfg.W b))) := by
  rw [exec, execSubm, onPorts_of_fits (a := a) (b := b) hw.1 hw.2]

theorem exec_mulm (hw : (Instr.mulm a b).WellFormed s.cfg.W) :
    exec (.mulm a b) s = .next (s.gate (BitVec.ofNat s.cfg.W a) (BitVec.ofNat s.cfg.W b)
      (barrettMul s.modulus s.modulusBits s.mu s.alpha (BitVec.ofNat s.cfg.W a) (BitVec.ofNat s.cfg.W b))) := by
  rw [exec, execMulm, onPorts_of_fits (a := a) (b := b) hw.1 hw.2]

theorem exec_rdmod (hw : (Instr.rdmod a b).WellFormed s.cfg.W) :
    exec (.rdmod a b) s = .next (s.readConstant s.modulus) := by
  rw [exec, execRdmod, onPorts_of_fits (a := a) (b := b) hw.1 hw.2]

theorem exec_rdbits (hw : (Instr.rdbits a b).WellFormed s.cfg.W) :
    exec (.rdbits a b) s = .next (s.readConstant s.modulusBits) := by
  rw [exec, execRdbits, onPorts_of_fits (a := a) (b := b) hw.1 hw.2]

theorem exec_rdmu (hw : (Instr.rdmu a b).WellFormed s.cfg.W) :
    exec (.rdmu a b) s = .next (s.readConstant s.mu) := by
  rw [exec, execRdmu, onPorts_of_fits (a := a) (b := b) hw.1 hw.2]

theorem exec_rdalpha (hw : (Instr.rdalpha a b).WellFormed s.cfg.W) :
    exec (.rdalpha a b) s = .next (s.readConstant s.alpha) := by
  rw [exec, execRdalpha, onPorts_of_fits (a := a) (b := b) hw.1 hw.2]

theorem exec_reserved {low : BitVec 3} (hw : (Instr.reserved low a b).WellFormed s.cfg.W) :
    exec (.reserved low a b) s = .next (s.refuseOpcode) := by
  rw [exec, execReserved, onPorts_of_fits (a := a) (b := b) hw.1 hw.2]

/-- If an instruction has a step, its operands fit the ports. -/
theorem wellFormed_of_exec_next {i : Instr} (h : exec i s = .next t) : i.WellFormed s.cfg.W := by
  cases i <;>
    simp only [exec, execCfg, execAddm, execSubm, execMulm, execRdmod, execRdbits, execRdmu, execRdalpha,
      execReserved] at h <;>
    exact (onPorts_next h).1

/-- If an instruction answers a next state, it is a command and the state is one of the cases. -/
theorem exec_next_cases {i : Instr} (h : exec i s = .next t) : i.WellFormed s.cfg.W ∧ ExecCase s i t := by
  have hw := wellFormed_of_exec_next h
  refine ⟨hw, ?_⟩
  cases i with
  | cfg a b => rw [exec_cfg hw] at h; injection h with h; exact h ▸ execCase_configure s a b hw.1
  | addm a b => rw [exec_addm hw] at h; injection h with h; exact h ▸ execCase_gate ..
  | subm a b => rw [exec_subm hw] at h; injection h with h; exact h ▸ execCase_gate ..
  | mulm a b => rw [exec_mulm hw] at h; injection h with h; exact h ▸ execCase_gate ..
  | rdmod a b => rw [exec_rdmod hw] at h; injection h with h; exact h ▸ execCase_readConstant ..
  | rdbits a b => rw [exec_rdbits hw] at h; injection h with h; exact h ▸ execCase_readConstant ..
  | rdmu a b => rw [exec_rdmu hw] at h; injection h with h; exact h ▸ execCase_readConstant ..
  | rdalpha a b => rw [exec_rdalpha hw] at h; injection h with h; exact h ▸ execCase_readConstant ..
  | reserved low a b => rw [exec_reserved hw] at h; injection h with h; exact h ▸ execCase_refuseOpcode ..

/-! ### Steps -/

theorem step_of_no_arrival (h : s.arrivals = []) : step s = .next s := by
  rw [step, h]

theorem step_of_reset {rest : List (PortEvent s.cfg.W)} (h : s.arrivals = .reset :: rest) :
    step s = .next (State.resetAction { s with arrivals := rest }) := by
  rw [step, h]

theorem step_of_command {host : Nat} {cmd : Command s.cfg.W} {rest : List (PortEvent s.cfg.W)}
    (h : s.arrivals = .command host cmd :: rest) :
    step s = deliverTo host (exec (decode cmd) { s with arrivals := rest }) := by
  rw [step, h]

/-- Everything a step can do. -/
theorem step_next_cases (h : step s = .next t) :
    (s.arrivals = [] ∧ t = s) ∨
    (∃ rest, s.arrivals = .reset :: rest ∧ t = State.resetAction { s with arrivals := rest }) ∨
    (∃ host cmd rest u, s.arrivals = .command host cmd :: rest ∧
      exec (decode cmd) { s with arrivals := rest } = .next u ∧ t = u.deliver host) := by
  cases ha : s.arrivals with
  | nil => rw [step_of_no_arrival ha] at h; injection h with h; exact .inl ⟨rfl, h.symm⟩
  | cons e rest =>
    cases e with
    | reset => rw [step_of_reset ha] at h; injection h with h; exact .inr (.inl ⟨rest, rfl, h.symm⟩)
    | command host cmd =>
      rw [step_of_command ha] at h
      obtain ⟨u, hu, rfl⟩ := deliverTo_next_cases h
      exact .inr (.inr ⟨host, cmd, rest, u, rfl, hu, rfl⟩)

/-! ### Runs -/

/-- A run of any machine behind the host's interface goes on from its first step. -/
theorem coreRun_succ (M : Host.Core) {s t : M.State} (n : Nat) (h : M.step s = .next t) :
    M.run (n + 1) s = M.run n t := by
  rw [Host.Core.run, h]

/-- If such a run answers a next state, so does its first step, and the rest of the run. -/
theorem coreRun_succ_cases (M : Host.Core) {s t : M.State} {n : Nat} (h : M.run (n + 1) s = .next t) :
    ∃ u, M.step s = .next u ∧ M.run n u = .next t := by
  rw [Host.Core.run] at h
  cases hs : M.step s with
  | next u => rw [hs] at h; exact ⟨u, rfl, h⟩
  | fault r => rw [hs] at h; cases h
  | refused r => rw [hs] at h; cases h

@[simp] theorem run_zero (s : State) : run 0 s = .next s := rfl

theorem run_succ (n : Nat) (h : step s = .next t) : run (n + 1) s = run n t :=
  coreRun_succ core n h

theorem run_succ_cases {n : Nat} (h : run (n + 1) s = .next t) :
    ∃ u, step s = .next u ∧ run n u = .next t :=
  coreRun_succ_cases core h

end Sys2Proof.Machine
end

