-- ==== Sys2Proof/Laws/PerInstr.lean ====
section
/-! SUPPORT. Statements about every instruction as syntax, one lemma for each constructor of Instr. Family OpcodeRow: the
instruction's opcode field is selected by the row of the opcode map that bears its mnemonic (spec/30_encoding.md R61). -/

namespace Sys2Proof.Laws.OpcodeRow

def Statement (i : Instr) : Prop :=
  ∃ r ∈ opcodeTable, r.mnemonic = i.mnemonic ∧ r.selects i.opcode = true

theorem cfg (a b : Nat) : Statement (.cfg a b) :=
  ⟨⟨"CFG", 0x0, 0xF⟩, by decide, rfl, show OpcodeRow.selects _ 0 = true by decide⟩

theorem addm (a b : Nat) : Statement (.addm a b) :=
  ⟨⟨"ADDM", 0x1, 0xF⟩, by decide, rfl, show OpcodeRow.selects _ 1 = true by decide⟩

theorem subm (a b : Nat) : Statement (.subm a b) :=
  ⟨⟨"SUBM", 0x2, 0xF⟩, by decide, rfl, show OpcodeRow.selects _ 2 = true by decide⟩

theorem mulm (a b : Nat) : Statement (.mulm a b) :=
  ⟨⟨"MULM", 0x3, 0xF⟩, by decide, rfl, show OpcodeRow.selects _ 3 = true by decide⟩

theorem rdmod (a b : Nat) : Statement (.rdmod a b) :=
  ⟨⟨"RDMOD", 0x4, 0xF⟩, by decide, rfl, show OpcodeRow.selects _ 4 = true by decide⟩

theorem rdbits (a b : Nat) : Statement (.rdbits a b) :=
  ⟨⟨"RDBITS", 0x5, 0xF⟩, by decide, rfl, show OpcodeRow.selects _ 5 = true by decide⟩

theorem rdmu (a b : Nat) : Statement (.rdmu a b) :=
  ⟨⟨"RDMU", 0x6, 0xF⟩, by decide, rfl, show OpcodeRow.selects _ 6 = true by decide⟩

theorem rdalpha (a b : Nat) : Statement (.rdalpha a b) :=
  ⟨⟨"RDALPHA", 0x7, 0xF⟩, by decide, rfl, show OpcodeRow.selects _ 7 = true by decide⟩

theorem reserved (low : BitVec 3) (a b : Nat) : Statement (.reserved low a b) := by
  refine ⟨⟨"(reserved)", 0x8, 0x8⟩, by decide, rfl, ?_⟩
  have h : ∀ l : BitVec 3, (OpcodeRow.selects ⟨"(reserved)", 0x8, 0x8⟩ (0x8 + l.setWidth 4)) = true := by decide
  exact h low

end Sys2Proof.Laws.OpcodeRow
end

