-- ==== Sys2Proof/Tests/Slice0.lean ====
section
/-! SUPPORT. Tests of single operations and steps, with expected values from the worked examples and tables of the spec, and
for each statement with hypotheses a witness that meets them. -/

namespace Sys2Proof.Tests

open Sys2Proof Sys2Proof.Machine

/-! ### Small states -/

/-- A configured engine at a width and a build, with the constants the spec's tables give for the modulus. -/
def configuredEngine (W : Nat) (checked : Bool) (m k mu alpha : Nat) : State :=
  { State.resetFor { W := W, checked := checked } with
    modulus := BitVec.ofNat W m, modulusBits := BitVec.ofNat W k, mu := BitVec.ofNat W mu,
    alpha := BitVec.ofNat W alpha, configured := true }

/-- After `CFG 17` at W = 32, CHECKED = true (V1). -/
def engine17 : State := configuredEngine 32 true 17 5 481 8

/-- After `CFG 17` at W = 32, CHECKED = false (P6). -/
def unchecked17 : State := configuredEngine 32 false 17 5 481 8

/-- After a fault with cause 4 (V6). -/
def faultedEngine : State := { State.reset with faulted := true, cause := 4 }

/-- After `CFG 1` at W = 32, CHECKED = true (V5). -/
def engine1 : State := configuredEngine 32 true 1 1 32 4

/-- The response an outcome shows: result, FAULT bit, cause. -/
def answerOf : Host.Outcome State Fault Refusal → Option (Nat × Bool × Nat)
  | .next t => t.response.map fun r => (r.result.toNat, r.status == .fault, r.cause.toNat)
  | .fault _ => none
  | .refused _ => none

/-- MODULUS_BITS, ALPHA, MU, and CONFIGURED, FAULTED, CAUSE after an outcome: the columns of V1. -/
def registersOf : Host.Outcome State Fault Refusal → Option (Nat × Nat × Nat × Bool × Bool × Nat)
  | .next t => some (t.modulusBits.toNat, t.alpha.toNat, t.mu.toNat, t.configured, t.faulted, t.cause.toNat)
  | .fault _ => none
  | .refused _ => none

/-- The responses delivered after an outcome, with their hosts. -/
def deliveriesOf : Host.Outcome State Fault Refusal → List (Nat × Nat × Nat)
  | .next t => t.delivered.map fun d => (d.host, d.response.result.toNat, d.response.cause.toNat)
  | .fault _ => []
  | .refused _ => []

/-! ### Well-formedness: an ill-formed term for each check -/

theorem smoke_portA_too_wide : ¬ (Instr.addm (2 ^ 32) 0).WellFormed 32 := by decide

theorem smoke_portB_too_wide : ¬ (Instr.rdmod 0 (2 ^ 32)).WellFormed 32 := by decide

theorem smoke_largest_operands : (Instr.mulm (2 ^ 32 - 1) (2 ^ 32 - 1)).WellFormed 32 := by decide

theorem test_ill_formed_is_refused :
    (match exec (.cfg (2 ^ 32) 0) State.reset with | .refused .operandTooWide => true | _ => false) = true := by
  decide

/-! ### Decoding: words written out from R60 and the programs of spec/95_test_vectors.md -/

theorem test_decode_cfg : decodeWord 32 0x00000000000030010 = .ok (.cfg 12289 0) := by decide

theorem test_decode_addm : decodeWord 32 0x00000001000000101 = .ok (.addm 16 1) := by decide

theorem test_decode_subm : decodeWord 64 0x000000000000000100000000000000002 = .ok (.subm 0 1) := by decide

theorem test_decode_mulm : decodeWord 32 0x000010E10000270F3 = .ok (.mulm 9999 4321) := by decide

theorem test_decode_rdmod : decodeWord 32 0x00000000000000004 = .ok (.rdmod 0 0) := by decide

theorem test_decode_rdbits : decodeWord 64 0x000000000000000000000000000000005 = .ok (.rdbits 0 0) := by decide

theorem test_decode_rdmu : decodeWord 64 0x000000000000000000000000000000006 = .ok (.rdmu 0 0) := by decide

theorem test_decode_rdalpha : decodeWord 32 0x00000000000000007 = .ok (.rdalpha 0 0) := by decide

theorem test_decode_reserved : decodeWord 32 0x00000002000000019 = .ok (.reserved 1 1 2) := by decide

/-- Opcode 0xF with the largest operands: `cmd` has 68 bits at W = 32 (R60). -/
theorem test_decode_all_ones : decodeWord 32 (2 ^ 68 - 1) = .ok (.reserved 7 (2 ^ 32 - 1) (2 ^ 32 - 1)) := by decide

theorem test_decode_too_long : decodeWord 32 (2 ^ 68) = .error .longerThanCommand := by decide

/-- `cmd` of `MULM 1234, 5678` (P2). -/
theorem test_encode_mulm : encode 32 (.mulm 1234 5678) = 0x0000162E000004D23#68 := by decide

theorem test_decodeTableWord : decodeTableWord 8 3 = some (.mulm 0 0) := by decide

/-! ### The assembler (R67, R68) -/

theorem test_assemble_comment :
    (assembleText 32 "MULM 0x4D2, 5678 ; -> 1922".toList).map pack = some 0x0000162E000004D23#68 := by decide

theorem test_assemble_pseudo : readLine "  SQRM 3".toList = some (.sqrm 3) := by decide

theorem test_assemble_raw : readLine ".op 9, 1, 2".toList = some (.rawOp 9 1 2) := by decide

theorem test_assemble_too_large : assembleText 32 "CFG 4294967296".toList = none := by decide

/-! ### CFG (V1, V6) -/

theorem test_cfg_17 : registersOf (exec (.cfg 17 99) State.reset) = some (5, 8, 481, true, false, 0) := by decide

/-- The largest MU at W = 32 (R108). -/
theorem test_cfg_largest_mu :
    registersOf (exec (.cfg 134217729 0) State.reset) = some (28, 31, 4294967264, true, false, 0) := by decide

theorem test_cfg_power_of_two_invalid :
    registersOf (exec (.cfg 134217728 0) State.reset) = some (0, 0, 0, false, true, 4) := by decide

theorem test_cfg_64 :
    registersOf (exec (.cfg 1152921504606846975 0) (State.resetFor { W := 64, checked := true })) =
      some (60, 63, 9223372036854775816, true, false, 0) := by decide

theorem test_cfg_second_beats_invalid : answerOf (exec (.cfg 0 0) engine17) = some (0, true, 3) := by decide

/-! ### Arithmetic (V2, V3, V4) -/

theorem test_addm_wraps : answerOf (exec (.addm 16 16) engine17) = some (15, false, 0) := by decide

theorem test_addm_no_correction : answerOf (exec (.addm 8 8) engine17) = some (16, false, 0) := by decide

theorem test_subm_borrows : answerOf (exec (.subm 10 12) engine17) = some (15, false, 0) := by decide

theorem test_subm_is_not_commutative : answerOf (exec (.subm 12 10) engine17) = some (2, false, 0) := by decide

/-- The correction step fires (R145). -/
theorem test_mulm_correction : answerOf (exec (.mulm 4 5) engine17) = some (3, false, 0) := by decide

/-- `q*m` wraps W bits (V4, R146). -/
theorem test_mulm_wraps :
    answerOf (exec (.mulm 123456789 987654) (configuredEngine 32 true 268435455 28 2147483656 31)) =
      some (81016536, false, 0) := by decide

theorem test_mulm_64 :
    answerOf (exec (.mulm 1152921504606846974 1152921504606846974)
      (configuredEngine 64 true 1152921504606846975 60 9223372036854775816 63)) = some (1, false, 0) := by decide

/-- The quotient of the worked trace (R150): `q = 7`. -/
theorem test_quotient_of_the_trace :
    (barrettQuotient (481 : Word 32) 8 (barrettShifted 5 (barrettProduct (10 : Word 32) 12))).toNat = 7 := by decide

theorem test_mulm_modulus_one : answerOf (exec (.mulm 0 0) engine1) = some (0, false, 0) := by decide

theorem test_range_checked : answerOf (exec (.addm 17 0) engine17) = some (0, true, 5) := by decide

/-- A draw raises no fault and writes no register, whatever its value (P6). -/
theorem test_range_unchecked : registersOf (exec (.addm 17 0) unchecked17) = some (5, 8, 481, true, false, 0) := by decide

/-! ### Accessors (V5) and faults (V6) -/

theorem test_rdmod : answerOf (exec (.rdmod 7 7) engine17) = some (17, false, 0) := by decide

theorem test_rdbits : answerOf (exec (.rdbits 0 0) engine17) = some (5, false, 0) := by decide

theorem test_rdmu : answerOf (exec (.rdmu 0 0) engine17) = some (481, false, 0) := by decide

theorem test_rdalpha : answerOf (exec (.rdalpha 0 0) engine17) = some (8, false, 0) := by decide

theorem test_rdmu_unconfigured : answerOf (exec (.rdmu 0 0) State.reset) = some (0, true, 2) := by decide

theorem test_reserved_configured : answerOf (exec (.reserved 1 1 2) engine17) = some (0, true, 1) := by decide

theorem test_reserved_while_faulted : registersOf (exec (.reserved 0 0 0) faultedEngine) =
    some (0, 0, 0, false, true, 4) := by decide

/-! ### Steps -/

/-- The word of `CFG 17` as the first command after reset (P1). -/
theorem test_step_fetch_word :
    registersOf (step (State.reset.withFetchWord 72 0x00000000000000110)) = some (5, 8, 481, true, false, 0) := by decide

/-- Host 2's `MULM 10, 12` is answered to host 2 (P7, S1). -/
theorem test_step_delivers :
    deliveriesOf (step { engine17 with arrivals := [.command 2 { op := 3, a := 10, b := 12 }] }) = [(2, 1, 0)] := by
  decide

/-- Reset clears a fault and the configuration (V6, last row). -/
theorem test_step_reset :
    registersOf (step { engine17 with faulted := true, cause := 5, arrivals := [.reset] }) =
      some (0, 0, 0, false, false, 0) := by decide

/-- The packed response of a NOT_CONFIGURED fault at W = 32: `2^32 + 2*2^33` (D24). -/
theorem test_response_word :
    (Response.pack (W := 32) { result := 0, status := .fault, cause := 2 }).toNat = 2 ^ 32 + 2 * 2 ^ 33 := by decide

/-! ### Witnesses: for each statement with hypotheses, a state and operands that meet them all, clause by clause -/

theorem engine17_inv : engine17.Inv where
  legal := by decide
  constants _ := { modulus_valid := by decide, bits_eq := by decide, alpha_eq := by decide, mu_eq := by decide }
  unconfigured h := by cases h
  cause := { none_iff := by decide, not_reserved := by decide, range_checked := by decide }

theorem engine1_inv : engine1.Inv where
  legal := by decide
  constants _ := { modulus_valid := by decide, bits_eq := by decide, alpha_eq := by decide, mu_eq := by decide }
  unconfigured h := by cases h
  cause := { none_iff := by decide, not_reserved := by decide, range_checked := by decide }

theorem unchecked17_inv : unchecked17.Inv where
  legal := by decide
  constants _ := { modulus_valid := by decide, bits_eq := by decide, alpha_eq := by decide, mu_eq := by decide }
  unconfigured h := by cases h
  cause := { none_iff := by decide, not_reserved := by decide, range_checked := by decide }

theorem reset_inv : State.reset.Inv where
  legal := by decide
  constants h := by cases h
  unconfigured _ := { modulus_zero := rfl, bits_zero := rfl, alpha_zero := rfl, mu_zero := rfl }
  cause := { none_iff := by decide, not_reserved := by decide, range_checked := by decide }

theorem witness_DecodeOfEncodeIsTheInstruction : (Instr.addm (2 ^ 32 - 1) 0).WellFormed 32 := by decide

theorem witness_CommandWordHoldsItsThreeFields :
    (Instr.reserved 7 0 (2 ^ 32 - 1)).WellFormed 32 ∧ 2 ^ (4 + 2 * 32) ≤ 2 ^ 68 := by decide

theorem witness_DecodeSelectsByOpcodeAlone :
    ({ op := 9, a := 1, b := 2 } : Command 32).op = ({ op := 9, a := 5, b := 6 } : Command 64).op := rfl

theorem witness_AssemblerLinesSpellTheirCommands :
    (FitsPort 32 (2 ^ 32 - 1) ∧ FitsPort 32 0) ∧ ¬ FitsPort 32 (2 ^ 32) := by decide

theorem witness_StepRunsTheDecodedInstruction :
    ∃ t, exec (decode ({ op := 3, a := 10, b := 12 } : Command engine17.cfg.W)) { engine17 with arrivals := [] } = .next t :=
  ⟨_, rfl⟩

theorem witness_EngineWaitsForACommand : State.reset.arrivals = [] := rfl

theorem witness_EveryCommandGetsOneResponse :
    (State.arrivals { engine17 with arrivals := [.command 1 { op := 15, a := 0, b := 0 }] }) =
      .command 1 { op := 15, a := 0, b := 0 } :: [] := rfl

theorem witness_WellFormedInstructionsAlwaysHaveAStep :
    (Instr.cfg (2 ^ 32 - 1) 0).WellFormed engine17.cfg.W ∧ ¬ (Instr.cfg (2 ^ 32) 0).WellFormed engine17.cfg.W := by decide

theorem witness_ResponseReportsTheOutcome :
    (∃ t, exec (.addm 16 0) engine17 = .next t) ∧ (∃ t, exec (.addm 17 0) engine17 = .next t) ∧
      ∃ t, exec (.cfg 17 0) State.reset = .next t :=
  ⟨⟨_, rfl⟩, ⟨_, rfl⟩, ⟨_, rfl⟩⟩

theorem witness_BitlenIsTheHighestSetBit : 1 ≤ 1 ∧ bitlen 1 ≤ 1 := by decide

theorem witness_CfgConfiguresOnceWithAValidModulus :
    (FitsPort 32 0 ∧ FitsPort 32 268435455) ∧ faultedEngine.faulted = true ∧
    (engine17.faulted = false ∧ engine17.configured = true) ∧
    (State.reset.faulted = false ∧ State.reset.configured = false ∧ ¬ ValidModulus 32 0 ∧
      ¬ ValidModulus 32 134217728 ∧ ValidModulus 32 1 ∧ ValidModulus 32 268435455) := by decide

theorem witness_BarrettConstantBounds : 1 ≤ 1 ∧ 8 ≤ 8 := by decide

theorem witness_ValidModulusClosedForm :
    8 ≤ 8 ∧ ValidModulus 8 15 ∧ ¬ ValidModulus 8 8 ∧ (1 ≤ 7 ∧ bitlen 7 ≤ 8 - 5) ∧ bitlen 8 = 8 - 4 ∧ bitlen 15 = 8 - 4 := by
  decide

theorem witness_ClosedFormCheckOfTheSource :
    let s := State.resetFor { W := 64, checked := true }
    64 ≤ 64 ∧ s.cfg.W = 64 ∧ FitsPort 64 (2 ^ 64 - 1) ∧ s.faulted = false ∧ s.configured = false := by decide

theorem witness_OnlyAValidCfgConfigures :
    (∃ t, exec (.addm 1 1) engine17 = .next t ∧ engine17.configured = true) ∧
    ∃ t, exec (.cfg 17 0) State.reset = .next t ∧ State.reset.configured = false ∧ t.configured = true :=
  ⟨⟨_, rfl, rfl⟩, _, rfl, rfl, rfl⟩

theorem witness_OperandGateOfTheArithmeticCommands :
    (Instr.mulm 16 17).Arithmetic ∧ (Instr.mulm 16 17).WellFormed engine17.cfg.W ∧ faultedEngine.faulted = true ∧
    (State.reset.faulted = false ∧ State.reset.configured = false) ∧
    (engine17.faulted = false ∧ engine17.configured = true ∧ engine17.PortOutOfRange (.mulm 16 17) ∧
      engine17.cfg.checked = true) ∧
    (unchecked17.faulted = false ∧ unchecked17.configured = true ∧ unchecked17.PortOutOfRange (.mulm 16 17) ∧
      unchecked17.cfg.checked = false) ∧
    ((Instr.mulm 16 16).WellFormed engine17.cfg.W ∧ ¬ engine17.PortOutOfRange (.mulm 16 16)) :=
  ⟨trivial, by decide, rfl, ⟨rfl, rfl⟩, ⟨rfl, rfl, by decide, rfl⟩, ⟨rfl, rfl, by decide, rfl⟩, by decide, by decide⟩

theorem witness_UncheckedOperandsAnswerAFreshDraw :
    (Instr.addm 17 0).Arithmetic ∧ (Instr.addm 17 0).WellFormed unchecked17.cfg.W ∧ unchecked17.Ready ∧
      unchecked17.PortOutOfRange (.addm 17 0) ∧ unchecked17.cfg.checked = false :=
  ⟨trivial, by decide, by decide, by decide, rfl⟩

theorem witness_AddmAnswersTheModularSum : engine17.Ready ∧ engine17.InRange 16 ∧ engine17.InRange 0 := by decide

theorem witness_SubmAnswersTheModularDifference : engine17.Ready ∧ engine17.InRange 0 ∧ engine17.InRange 16 ∧ 0 < 16 := by
  decide

theorem witness_AdderAndSubtractorIntermediatesFit : 8 ≤ 8 ∧ ValidModulus 8 15 ∧ 14 < 15 ∧ 0 < 15 := by decide

theorem witness_AdditionAndSubtractionLaws :
    engine17.Ready ∧ engine17.InRange 16 ∧ engine17.InRange 0 ∧ engine17.modulus.toNat = 17 := by decide

theorem witness_BarrettQuotientIsAtMostOneLow : 2 ≤ bitlen 2 ∧ 1 < 2 ∧ 0 < 2 := by decide

theorem witness_BarrettIntermediateBounds :
    (8 ≤ 8 ∧ ValidModulus 8 15 ∧ 14 < 15) ∧ (ValidModulus 8 1 ∧ 0 < 1 ∧ bitlen 1 = 1) ∧ 2 ≤ bitlen 15 := by decide

theorem witness_BarrettDatapathIsExact :
    engine17.Inv ∧ engine17.configured = true ∧ engine17.InRange (16 : Word 32).toNat ∧
      engine17.InRange (0 : Word 32).toNat :=
  ⟨engine17_inv, rfl, by decide, by decide⟩

theorem witness_MulmAnswersTheModularProduct :
    (engine17.Inv ∧ engine17.Ready ∧ engine17.InRange 16 ∧ engine17.InRange 0) ∧
      engine1.Inv ∧ engine1.Ready ∧ engine1.InRange 0 :=
  ⟨⟨engine17_inv, by decide, by decide, by decide⟩, engine1_inv, by decide, by decide⟩

theorem witness_MultiplicationLaws :
    (engine17.Inv ∧ engine17.Ready ∧ engine17.InRange 16 ∧ engine17.InRange 0 ∧ 1 < engine17.modulus.toNat) ∧
      engine1.Inv ∧ engine1.Ready ∧ engine1.InRange 0 ∧ ¬ 1 < engine1.modulus.toNat :=
  ⟨⟨engine17_inv, by decide, by decide, by decide, by decide⟩, engine1_inv, by decide, by decide, by decide⟩

theorem witness_PseudoCommandsAnswer : engine17.Inv ∧ engine17.Ready ∧ engine17.InRange 0 :=
  ⟨engine17_inv, by decide, by decide⟩

theorem witness_AccessorsAnswerTheConstants :
    (FitsPort 32 (2 ^ 32 - 1) ∧ FitsPort 32 0) ∧ faultedEngine.faulted = true ∧
    (State.reset.faulted = false ∧ State.reset.configured = false) ∧
    (engine17.faulted = false ∧ engine17.configured = true) := by decide

theorem witness_AccessorsAnswerTheConstants_members :
    (Instr.rdalpha 0 0, engine17.alpha) ∈
      [(Instr.rdmod 0 0, engine17.modulus), (.rdbits 0 0, engine17.modulusBits), (.rdmu 0 0, engine17.mu),
        (.rdalpha 0 0, engine17.alpha)] :=
  List.mem_cons_of_mem _ (List.mem_cons_of_mem _ (List.mem_cons_of_mem _ (List.mem_cons_self ..)))

theorem witness_ConstantRegistersStayInRange : engine17.Inv ∧ engine17.configured = true :=
  ⟨engine17_inv, rfl⟩

theorem witness_AccessorLaws :
    engine17.Inv ∧ engine17.Ready ∧ (∀ e ∈ engine17.arrivals, e.IsCommand) ∧
      ∃ t, run 1 engine17 = .next t ∧ t.faulted = false :=
  ⟨engine17_inv, by decide, fun _ h => absurd h List.not_mem_nil, _, rfl, rfl⟩

theorem witness_ReservedOpcodesRaiseIllegalOpcode :
    (FitsPort 32 (2 ^ 32 - 1) ∧ FitsPort 32 0) ∧ State.reset.faulted = false ∧ faultedEngine.faulted = true ∧
      8 ≤ ({ op := 8, a := 0, b := 0 } : Command 32).op.toNat := by decide

theorem witness_UseBeforeCfgRaisesNotConfigured :
    FitsPort 32 0 ∧ State.reset.faulted = false ∧ State.reset.configured = false ∧
      Instr.rdalpha 0 0 ∈ [.addm 0 0, .subm 0 0, .mulm 0 0, .rdmod 0 0, .rdbits 0 0, .rdmu 0 0, Instr.rdalpha 0 0] := by
  decide

theorem witness_FaultedEngineAnswersEveryCommandWithItsCause :
    ((Instr.cfg 17 0).WellFormed faultedEngine.cfg.W ∧ faultedEngine.faulted = true) ∧
      ∃ t, step { faultedEngine with arrivals := [.reset] } = .next t ∧ t.faulted = false :=
  ⟨by decide, _, rfl, rfl⟩

theorem witness_RaisingAFaultWritesOnlyFaultedAndCause :
    ∃ t, exec (.cfg 0 0) State.reset = .next t ∧ State.reset.faulted = false ∧ t.faulted = true :=
  ⟨_, rfl, rfl, rfl⟩

theorem witness_OnlyResetClearsAFault :
    ∃ t, step { engine17 with faulted := true, arrivals := [.reset] } = .next t ∧ t.faulted = false ∧
      t.configured = false :=
  ⟨_, rfl, rfl, rfl⟩

theorem faultedEngine_inv : faultedEngine.Inv where
  legal := by decide
  constants h := by cases h
  unconfigured _ := { modulus_zero := rfl, bits_zero := rfl, alpha_zero := rfl, mu_zero := rfl }
  cause := { none_iff := by decide, not_reserved := by decide, range_checked := by decide }

theorem witness_EachFaultIsRaisedUnderItsCondition :
    (engine17.Inv ∧ engine17.faulted = false ∧ ∃ t, exec (.addm 17 0) engine17 = .next t) ∧
      faultedEngine.Inv ∧ faultedEngine.faulted = true ∧ ∃ t, exec (.cfg 17 0) faultedEngine = .next t :=
  ⟨⟨engine17_inv, rfl, _, rfl⟩, faultedEngine_inv, rfl, _, rfl⟩

theorem witness_CheckedMattersOnlyForOutOfRangeOperands :
    (Instr.addm 16 0).WellFormed engine17.cfg.W ∧
      ¬ ((Instr.addm 16 0).Arithmetic ∧ engine17.Ready ∧ engine17.PortOutOfRange (.addm 16 0)) :=
  ⟨by decide, fun h => absurd h.2.2 (by decide)⟩

theorem witness_IgnoredFieldsDoNotMatter : FitsPort 32 0 ∧ FitsPort 32 (2 ^ 32 - 1) := by decide

theorem witness_SuccessfulCommandsWriteNoRegister :
    engine17.Ready ∧ (Instr.mulm 16 0).Plain engine17 ∧ (Instr.mulm 16 0).WellFormed engine17.cfg.W :=
  ⟨by decide, show engine17.InRange 16 ∧ engine17.InRange 0 by decide, by decide⟩

theorem witness_ConfiguredRegistersAreImmutable :
    let s : State := { engine17 with arrivals := [.command 0 { op := 0, a := 5, b := 0 }] }
    engine17.configured = true ∧ (∃ t, exec (.cfg 5 0) engine17 = .next t) ∧
      (∃ t, step s = .next t) ∧ s.arrivals.head? ≠ some .reset :=
  ⟨rfl, ⟨_, rfl⟩, ⟨_, rfl⟩, fun h => by cases h⟩

theorem witness_NoStepChangesTheParameters : ∃ t, step State.reset = .next t :=
  ⟨_, rfl⟩

theorem witness_ResetStateMeetsTheInvariant : Config.Legal { W := 8, checked := false } := by decide

theorem witness_EveryStepKeepsTheInvariant :
    (engine17.Inv ∧ ∃ t, step engine17 = .next t) ∧ (unchecked17.Inv ∧ ∃ t, step unchecked17 = .next t) :=
  ⟨⟨engine17_inv, _, rfl⟩, unchecked17_inv, _, rfl⟩

/-- A configured engine with one command waiting, which will raise a fault. -/
theorem witness_ConstantsLastUntilReset :
    let s : State := { engine17 with arrivals := [.command 0 { op := 1, a := 17, b := 0 }] }
    s.configured = true ∧ (∀ e ∈ s.arrivals, e.IsCommand) ∧ ∃ t, run 1 s = .next t :=
  ⟨rfl, fun _ h => List.mem_singleton.1 h ▸ trivial, _, rfl⟩

/-- A faulted engine with one command waiting. -/
theorem witness_FaultLastsUntilReset :
    let s : State := { faultedEngine with arrivals := [.command 0 { op := 0, a := 17, b := 0 }] }
    s.faulted = true ∧ (∀ e ∈ s.arrivals, e.IsCommand) ∧ ∃ t, run 1 s = .next t :=
  ⟨rfl, fun _ h => List.mem_singleton.1 h ▸ trivial, _, rfl⟩

/-- Two hosts, in both orders: the lists differ and each host's commands are the same. -/
theorem witness_ResponsesDoNotDependOnTheInterleaving :
    let e1 : PortEvent engine17.cfg.W := .command 1 { op := 3, a := 16, b := 16 }
    let e2 : PortEvent engine17.cfg.W := .command 2 { op := 6, a := 0, b := 0 }
    engine17.Ready ∧ (∀ e ∈ [e1, e2], PortEvent.Plain engine17 e) ∧ (∀ e ∈ [e2, e1], PortEvent.Plain engine17 e) ∧
      (∀ host, commandsOf host [e1, e2] = commandsOf host [e2, e1]) ∧ [e1, e2] ≠ [e2, e1] := by
  have p1 : PortEvent.Plain engine17 (.command 1 { op := 3, a := 16, b := 16 }) :=
    show engine17.InRange 16 ∧ engine17.InRange 16 by decide
  have p2 : PortEvent.Plain engine17 (.command 2 { op := 6, a := 0, b := 0 }) := trivial
  refine ⟨by decide, ?_, ?_, ?_, ?_⟩
  · exact List.forall_mem_cons.2 ⟨p1, List.forall_mem_singleton.2 p2⟩
  · exact List.forall_mem_cons.2 ⟨p2, List.forall_mem_singleton.2 p1⟩
  · intro host
    by_cases h1 : 1 = host
    · subst h1; rfl
    · simp [commandsOf, h1]
  · intro h
    injection h with h
    injection h with h
    cases h

end Sys2Proof.Tests
end

section
/-! SUPPORT. The statements of spec/00_scope.md: the bit length (R12) and the two parameters (R7, R8). -/

namespace Sys2Proof.Machine

/-! ### The bit length (R12) -/

/-- A positive number lies between the two powers of 2 that its bit length names. -/
theorem bitlen_bounds {v : Nat} (hv : 1 ≤ v) :
    1 ≤ bitlen v ∧ 2 ^ (bitlen v - 1) ≤ v ∧ v < 2 ^ bitlen v := by
  have hne : v ≠ 0 := Nat.one_le_iff_ne_zero.1 hv
  rw [bitlen, if_neg hne, Nat.add_sub_cancel]
  exact ⟨Nat.le_add_left .., Nat.log2_self_le hne, Nat.lt_log2_self⟩

/-- Settles O17: the power of 2 at or below `v` sets the top bit, and the one above `v` clears the rest. -/
theorem bitlenIsTheHighestSetBit : Obligations.BitlenIsTheHighestSetBit := by
  intro v hv
  obtain ⟨hpos, hle, hlt⟩ := bitlen_bounds hv
  refine ⟨hpos, ?_, fun j hj => ?_⟩
  · exact Nat.testBit_of_two_pow_le_and_two_pow_add_one_gt hle (by rwa [Nat.sub_add_cancel hpos])
  · exact Nat.testBit_lt_two_pow (hlt.trans_le (Nat.pow_le_pow_right Nat.two_pos hj))

/-! ### No instruction and no step writes a parameter (R7, R8) -/

/-- Whatever way an instruction ends, the parameters are as before. -/
theorem ExecCase.cfg_eq {s t : State} {i : Instr} (h : ExecCase s i t) : t.cfg = s.cfg := by
  cases h with
  | faulted => exact State.answerFaulted_cfg s
  | raised _ c => exact State.raiseFault_cfg s c
  | configured => exact State.completeCfg_cfg s _
  | performed _ _ v => exact State.respondOk_cfg s v
  | drawn => exact State.respondDraw_cfg s

/-- Settles O48, by the three things a step can do. -/
theorem noStepChangesTheParameters : Obligations.NoStepChangesTheParameters := by
  intro s t h
  obtain ⟨-, rfl⟩ | ⟨rest, -, rfl⟩ | ⟨host, cmd, rest, u, -, hu, rfl⟩ := step_next_cases h
  · rfl
  · exact State.resetAction_cfg _
  · exact (State.deliver_cfg u host).trans (exec_next_cases hu).2.cfg_eq

/-! ### The other build (R8): each shared operation does the same with any value of CHECKED -/

section
variable (s : State) (c : Bool)

/-- The accessors' prologue never looks at CHECKED (R160). -/
theorem readConstant_withChecked (v : Word s.cfg.W) :
    (s.withChecked c).readConstant v = (s.readConstant v).withChecked c := by
  obtain ⟨hf, e⟩ | ⟨hf, hc, e⟩ | ⟨hf, hc, e⟩ := readConstant_cases s v <;> rw [e]
  · exact readConstant_of_faulted (s := s.withChecked c) hf
  · exact readConstant_of_unconfigured (s := s.withChecked c) hf hc
  · exact readConstant_of_ready (s := s.withChecked c) hf hc

/-- CFG never looks at CHECKED (R101). -/
theorem configure_withChecked (x : Word s.cfg.W) :
    (s.withChecked c).configure x = (s.configure x).withChecked c := by
  obtain ⟨hf, e⟩ | ⟨hf, hc, e⟩ | ⟨hf, hc, hv, e⟩ | ⟨hf, hc, hv, e⟩ := configure_cases s x <;> rw [e]
  · exact configure_of_faulted (s := s.withChecked c) hf
  · exact configure_of_configured (s := s.withChecked c) hf hc
  · exact configure_of_invalid (s := s.withChecked c) hf hc hv
  · exact configure_of_valid (s := s.withChecked c) hf hc hv

/-- A reserved opcode never looks at CHECKED (R202). -/
theorem refuseOpcode_withChecked : (s.withChecked c).refuseOpcode = s.refuseOpcode.withChecked c := by
  cases hf : s.faulted with
  | true =>
    rw [refuseOpcode_of_faulted hf]
    exact refuseOpcode_of_faulted (s := s.withChecked c) hf
  | false =>
    rw [refuseOpcode_of_unfaulted hf]
    exact refuseOpcode_of_unfaulted (s := s.withChecked c) hf

variable {s}

/-- The operand gate looks at CHECKED only for an out-of-range operand on a ready engine (R203, R204). -/
theorem gate_withChecked {x y v : Word s.cfg.W} (h : ¬ (s.Ready ∧ s.OutOfRange x y)) :
    (s.withChecked c).gate x y v = (s.gate x y v).withChecked c := by
  obtain ⟨hf, e⟩ | ⟨hf, hc, e⟩ | ⟨hf, hc, ho, -⟩ | ⟨hf, hc, ho, -⟩ | ⟨hf, hc, ho, e⟩ := gate_cases s x y v
  · rw [e]; exact gate_of_faulted (s := s.withChecked c) hf
  · rw [e]; exact gate_of_unconfigured (s := s.withChecked c) hf hc
  · exact absurd ⟨⟨hc, hf⟩, ho⟩ h
  · exact absurd ⟨⟨hc, hf⟩, ho⟩ h
  · rw [e]; exact gate_of_inRange (s := s.withChecked c) hf hc ho

/-- The gate's range test of the port words is the range test of the operands that stand on the ports (R204). -/
theorem outOfRange_ports_iff {i : Instr} (hw : i.WellFormed s.cfg.W) :
    s.OutOfRange (BitVec.ofNat s.cfg.W i.portA) (BitVec.ofNat s.cfg.W i.portB) ↔ s.PortOutOfRange i := by
  rw [State.OutOfRange, toNat_port hw.1, toNat_port hw.2]

/-- An instruction does the same in both builds once its next states in them agree but for CHECKED. -/
theorem exec_next_withChecked {i : Instr} {t u : State} (hs : exec i s = .next t)
    (hc : exec i (s.withChecked c) = .next u) (h : u = t.withChecked c) :
    ∃ t, exec i s = .next t ∧ exec i (s.withChecked c) = .next (t.withChecked c) :=
  ⟨t, hs, h ▸ hc⟩

end

/-- Settles O44: the instruction's shared operation does the same in both builds; for ADDM, SUBM and MULM the hypothesis
leaves out the one path of the gate that looks at CHECKED. -/
theorem checkedMattersOnlyForOutOfRangeOperands : Obligations.CheckedMattersOnlyForOutOfRangeOperands := by
  intro s i c hw h
  have gated (ha : i.Arithmetic) (v : Word s.cfg.W) := gate_withChecked c (v := v)
    fun ⟨hr, ho⟩ => h ⟨ha, hr, (outOfRange_ports_iff hw).1 ho⟩
  cases i with
  | cfg a b => exact exec_next_withChecked c (exec_cfg hw) (exec_cfg hw) (configure_withChecked s c _)
  | addm a b => exact exec_next_withChecked c (exec_addm hw) (exec_addm hw) (gated trivial _)
  | subm a b => exact exec_next_withChecked c (exec_subm hw) (exec_subm hw) (gated trivial _)
  | mulm a b => exact exec_next_withChecked c (exec_mulm hw) (exec_mulm hw) (gated trivial _)
  | rdmod a b => exact exec_next_withChecked c (exec_rdmod hw) (exec_rdmod hw) (readConstant_withChecked s c _)
  | rdbits a b => exact exec_next_withChecked c (exec_rdbits hw) (exec_rdbits hw) (readConstant_withChecked s c _)
  | rdmu a b => exact exec_next_withChecked c (exec_rdmu hw) (exec_rdmu hw) (readConstant_withChecked s c _)
  | rdalpha a b => exact exec_next_withChecked c (exec_rdalpha hw) (exec_rdalpha hw) (readConstant_withChecked s c _)
  | reserved low a b =>
    exact exec_next_withChecked c (exec_reserved hw) (exec_reserved hw) (refuseOpcode_withChecked s c)

end Sys2Proof.Machine
end

section
/-! SUPPORT. The statements of spec/10_state.md: the invariant of the machine (R33, R34), the frame of the constant
registers (R35), the response port (R31), and how the hosts' commands are performed in order (R42). -/

namespace Sys2Proof.Machine

variable {s t u : State} {i : Instr}

/-! ### The ports: which terms have a step, and what a step performs (R20, R31, R67) -/

/-- A well-formed instruction has a step. -/
theorem exec_next_of_wellFormed (hw : i.WellFormed s.cfg.W) : ∃ t, exec i s = .next t := by
  cases i with
  | cfg a b => exact ⟨_, exec_cfg hw⟩
  | addm a b => exact ⟨_, exec_addm hw⟩
  | subm a b => exact ⟨_, exec_subm hw⟩
  | mulm a b => exact ⟨_, exec_mulm hw⟩
  | rdmod a b => exact ⟨_, exec_rdmod hw⟩
  | rdbits a b => exact ⟨_, exec_rdbits hw⟩
  | rdmu a b => exact ⟨_, exec_rdmu hw⟩
  | rdalpha a b => exact ⟨_, exec_rdalpha hw⟩
  | reserved low a b => exact ⟨_, exec_reserved hw⟩

/-- Every meaning acts through the ports, which refuse an operand that is no W-bit value. -/
theorem exec_of_not_wellFormed (hw : ¬ i.WellFormed s.cfg.W) : exec i s = .refused .operandTooWide := by
  cases i <;> exact if_neg hw

/-- Settles O12, by the two cases of well-formedness. -/
theorem wellFormedInstructionsAlwaysHaveAStep : Obligations.WellFormedInstructionsAlwaysHaveAStep :=
  fun _ _ => ⟨exec_next_of_wellFormed, exec_of_not_wellFormed⟩

/-- Settles O9: a step on a command is the delivery of what `exec` answers. -/
theorem stepRunsTheDecodedInstruction : Obligations.StepRunsTheDecodedInstruction := by
  intro s host cmd rest t h
  rw [step_of_command (s := { s with arrivals := .command host cmd :: rest }) rfl, h, deliverTo_next]

/-! ### The frames of a command and of a step (R35) -/

/-- The next state `t` of a command that writes no constant register: FAULTED, CAUSE, the driven response and the number
of the draws are all that may differ. -/
def State.AnswersKeepingConstants (s t : State) : Prop :=
  ∃ (f : Bool) (c : CauseCode) (r : Response s.cfg.W) (n : Nat),
    t = { s with faulted := f, cause := c, response := some r, draws := n }

/-- `t` has the parameters, the constant registers and CONFIGURED of `s`; everything else may differ. -/
def State.KeepsConstants (s t : State) : Prop :=
  ∃ (f : Bool) (c : CauseCode) (r : Option (Response s.cfg.W)) (ev : List (PortEvent s.cfg.W))
    (d : List (Delivery s.cfg.W)) (n : Nat),
    t = { s with faulted := f, cause := c, response := r, arrivals := ev, delivered := d, draws := n }

theorem State.AnswersKeepingConstants.keepsConstants (h : s.AnswersKeepingConstants t) : s.KeepsConstants t := by
  obtain ⟨f, c, r, n, rfl⟩ := h
  exact ⟨f, c, some r, _, _, n, rfl⟩

theorem State.KeepsConstants.refl (s : State) : s.KeepsConstants s := ⟨_, _, _, _, _, _, rfl⟩

theorem State.KeepsConstants.trans (h : s.KeepsConstants t) (h' : t.KeepsConstants u) : s.KeepsConstants u := by
  obtain ⟨_, _, _, _, _, _, rfl⟩ := h
  obtain ⟨f, c, r, ev, d, n, rfl⟩ := h'
  exact ⟨f, c, r, ev, d, n, rfl⟩

theorem State.keepsConstants_deliver (s : State) (host : Nat) : s.KeepsConstants (s.deliver host) :=
  ⟨_, _, _, _, _, _, rfl⟩

theorem State.keepsConstants_arrivals (s : State) (l : List (PortEvent s.cfg.W)) :
    s.KeepsConstants { s with arrivals := l } :=
  ⟨_, _, _, _, _, _, rfl⟩

theorem State.KeepsConstants.configured_eq (h : s.KeepsConstants t) : t.configured = s.configured := by
  obtain ⟨_, _, _, _, _, _, rfl⟩ := h
  rfl

/-- An instruction writes no constant register, or is a CFG with a valid modulus on an engine neither faulted nor
configured, which succeeds (R35, R101). -/
theorem ExecCase.keeps_or_completes (h : ExecCase s i t) :
    s.AnswersKeepingConstants t ∨
    (s.faulted = false ∧ s.configured = false ∧ ∃ a b, i = .cfg a b ∧ ValidModulus s.cfg.W a ∧
      t = s.completeCfg (BitVec.ofNat s.cfg.W a)) := by
  cases h with
  | faulted => exact .inl ⟨_, _, _, _, rfl⟩
  | raised => exact .inl ⟨_, _, _, _, rfl⟩
  | configured hf hc a b hi hv => exact .inr ⟨hf, hc, a, b, hi, hv, rfl⟩
  | performed => exact .inl ⟨_, _, _, _, rfl⟩
  | drawn => exact .inl ⟨_, _, _, _, rfl⟩

/-- A configured engine performs no CFG, so no instruction writes a constant register (R35, R100). -/
theorem ExecCase.keeps_of_configured (h : ExecCase s i t) (hc : s.configured = true) :
    s.AnswersKeepingConstants t := by
  obtain hk | ⟨-, hc', -⟩ := h.keeps_or_completes
  · exact hk
  · rw [hc] at hc'
    cases hc'

/-- From a configured state a step that is no reset writes no constant register (R35). -/
theorem step_keepsConstants (hc : s.configured = true) (h : step s = .next t)
    (hr : s.arrivals.head? ≠ some .reset) : s.KeepsConstants t := by
  obtain ⟨-, rfl⟩ | ⟨rest, ha, -⟩ | ⟨host, cmd, rest, u, -, hu, rfl⟩ := step_next_cases h
  · exact .refl t
  · exact absurd (by rw [ha]; rfl) hr
  · have hk : State.KeepsConstants { s with arrivals := rest } u :=
      ((exec_next_cases hu).2.keeps_of_configured hc).keepsConstants
    exact ((s.keepsConstants_arrivals rest).trans hk).trans (u.keepsConstants_deliver host)

/-- Settles O47, by the frame of a command and the frame of a step. -/
theorem configuredRegistersAreImmutable : Obligations.ConfiguredRegistersAreImmutable :=
  ⟨fun _ _ _ hc h => (exec_next_cases h).2.keeps_of_configured hc, fun _ _ hc h hr => step_keepsConstants hc h hr⟩

/-! ### Who sets and clears CONFIGURED and FAULTED (R25, R29) -/

/-- No instruction clears CONFIGURED. -/
theorem ExecCase.configured_mono (h : ExecCase s i t) (hc : s.configured = true) : t.configured = true :=
  (h.keeps_of_configured hc).keepsConstants.configured_eq.trans hc

/-- No instruction clears FAULTED: a faulted engine only answers (R207). -/
theorem ExecCase.faulted_mono (h : ExecCase s i t) (hf : s.faulted = true) : t.faulted = true := by
  cases h with
  | faulted => exact hf
  | raised => rfl
  | configured => exact hf
  | performed => exact hf
  | drawn => exact hf

/-- Settles O22: an instruction that writes no constant register keeps CONFIGURED, and the other is the CFG. -/
theorem onlyAValidCfgConfigures : Obligations.OnlyAValidCfgConfigures := by
  intro s i t h
  have hx := (exec_next_cases h).2
  refine ⟨hx.configured_mono, fun hc ht => ?_⟩
  obtain hk | ⟨hf, -, a, b, hi, hv, -⟩ := hx.keeps_or_completes
  · rw [hk.keepsConstants.configured_eq, hc] at ht
    cases ht
  · exact ⟨hf, a, b, hi, hv⟩

/-- A step that is no reset clears neither FAULTED nor CONFIGURED. -/
theorem step_flags_mono (h : step s = .next t) :
    s.arrivals.head? = some .reset ∨
      (s.faulted = true → t.faulted = true) ∧ (s.configured = true → t.configured = true) := by
  obtain ⟨-, rfl⟩ | ⟨rest, ha, -⟩ | ⟨host, cmd, rest, u, -, hu, rfl⟩ := step_next_cases h
  · exact .inr ⟨id, id⟩
  · exact .inl (by rw [ha]; rfl)
  · have hx := (exec_next_cases hu).2
    exact .inr ⟨hx.faulted_mono, hx.configured_mono⟩

/-- Settles O42: only the reset clears a flag. -/
theorem onlyResetClearsAFault : Obligations.OnlyResetClearsAFault := by
  intro s t h
  obtain hr | ⟨hf, hc⟩ := step_flags_mono h
  · exact ⟨fun _ _ => hr, fun _ _ => hr⟩
  · exact ⟨fun hs ht => absurd (hf hs) (by simp [ht]), fun hs ht => absurd (hc hs) (by simp [ht])⟩

/-! ### The response (R31) -/

/-- The response of an instruction agrees with the state it leaves. -/
theorem ExecCase.response_agrees (h : ExecCase s i t) :
    ∃ r, t.response = some r ∧
      (r.status = .ok → r.cause = 0 ∧ t.faulted = false) ∧
      (r.status = .fault → r.result = 0 ∧ r.cause = t.cause ∧ t.faulted = true) := by
  cases h with
  | faulted hf => exact ⟨_, rfl, nofun, fun _ => ⟨rfl, rfl, hf⟩⟩
  | raised => exact ⟨_, rfl, nofun, fun _ => ⟨rfl, rfl, rfl⟩⟩
  | configured hf => exact ⟨_, rfl, fun _ => ⟨rfl, hf⟩, nofun⟩
  | performed hf => exact ⟨_, rfl, fun _ => ⟨rfl, hf⟩, nofun⟩
  | drawn hf => exact ⟨_, rfl, fun _ => ⟨rfl, hf⟩, nofun⟩

/-- CFG answers 0 on every path (R101). -/
theorem configure_result_zero (s : State) (x : Word s.cfg.W) :
    ∀ r, (s.configure x).response = some r → r.result = 0 := by
  obtain ⟨-, e⟩ | ⟨-, -, e⟩ | ⟨-, -, -, e⟩ | ⟨-, -, -, e⟩ := configure_cases s x <;>
    · rw [e]
      rintro _ ⟨⟩
      rfl

/-- Settles O13: by the ways an instruction can end, and by the paths of CFG for its result. -/
theorem responseReportsTheOutcome : Obligations.ResponseReportsTheOutcome := by
  intro s i t h
  obtain ⟨hw, hx⟩ := exec_next_cases h
  obtain ⟨r, hr, hok, hfault⟩ := hx.response_agrees
  refine ⟨r, hr, hok, hfault, ?_⟩
  rintro ⟨a, b, rfl⟩
  rw [exec_cfg hw] at h
  injection h with h
  subst h
  exact configure_result_zero s _ r hr

/-- An instruction drives one response and touches neither the parameters, the arrivals nor the deliveries (R31). -/
theorem ExecCase.frame (h : ExecCase s i t) :
    ∃ (r : Response s.cfg.W) (m k mu al : Word s.cfg.W) (c f : Bool) (code : CauseCode) (n : Nat),
      t = { s with
        modulus := m, modulusBits := k, mu := mu, alpha := al, configured := c, faulted := f, cause := code,
        response := some r, draws := n } := by
  obtain ⟨f, code, r, n, rfl⟩ | ⟨-, -, a, -, -, -, rfl⟩ := h.keeps_or_completes
  · exact ⟨r, _, _, _, _, _, f, code, n, rfl⟩
  · exact ⟨_, _, _, _, _, _, _, _, _, rfl⟩

/-- Settles O11: a decoded command is well-formed, so it has a step, which drives one response. -/
theorem everyCommandGetsOneResponse : Obligations.EveryCommandGetsOneResponse := by
  intro s host cmd rest ha
  obtain ⟨t, ht⟩ := exec_next_of_wellFormed (s := { s with arrivals := rest }) (decode_wellFormed cmd)
  obtain ⟨r, m, k, mu, al, c, f, code, n, rfl⟩ := (exec_next_cases ht).2.frame
  refine ⟨r, m, k, mu, al, c, f, code, n, ?_⟩
  rw [step_of_command ha, ht, deliverTo_next, deliver_of_response host rfl]

/-! ### The arrivals are performed in order (R42) -/

theorem issuers_cons {W : Nat} (e : PortEvent W) (l : List (PortEvent W)) :
    issuers (e :: l) = issuers [e] ++ issuers l := by
  cases e <;> rfl

/-- A step performs the next event, whichever it is, and answers its issuer if it has one. -/
theorem step_performs {e : PortEvent s.cfg.W} {rest : List (PortEvent s.cfg.W)} (ha : s.arrivals = e :: rest) :
    ∃ t, step s = .next t ∧ t.cfg = s.cfg ∧
      t.arrivals.length = rest.length ∧ issuers t.arrivals = issuers rest ∧
      t.delivered.map (fun x => x.host) = s.delivered.map (fun x => x.host) ++ issuers [e] := by
  cases e with
  | reset => exact ⟨_, step_of_reset ha, rfl, rfl, rfl, (List.append_nil _).symm⟩
  | command host cmd =>
    obtain ⟨r, m, k, mu, al, c, f, code, n, h⟩ := everyCommandGetsOneResponse s host cmd rest ha
    exact ⟨_, h, rfl, rfl, rfl, List.map_append⟩

/-- As many steps as there are arrivals perform them all. -/
theorem run_performs_all (n : Nat) (s : State) (hn : s.arrivals.length = n) :
    ∃ t, run n s = .next t ∧ t.cfg = s.cfg ∧ t.arrivals = [] ∧
      t.delivered.map (fun x => x.host) = s.delivered.map (fun x => x.host) ++ issuers s.arrivals := by
  induction n generalizing s with
  | zero =>
    have ha : s.arrivals = [] := List.length_eq_zero_iff.1 hn
    exact ⟨s, rfl, rfl, ha, by rw [ha]; exact (List.append_nil _).symm⟩
  | succ n ih =>
    obtain ⟨e, rest, ha⟩ := List.exists_cons_of_length_eq_add_one hn
    obtain ⟨u, hstep, hcfg, hlen, hiss, hdel⟩ := step_performs ha
    obtain ⟨t, hrun, htcfg, harr, htdel⟩ := ih u (by rw [hlen]; simpa [ha] using hn)
    refine ⟨t, (run_succ n hstep).trans hrun, htcfg.trans hcfg, harr, ?_⟩
    rw [htdel, hdel, hiss, ha, issuers_cons e rest, List.append_assoc]

/-- Settles O53, by induction on the number of the arrivals. -/
theorem allArrivalsArePerformedInOrder : Obligations.AllArrivalsArePerformedInOrder :=
  fun s => run_performs_all s.arrivals.length s rfl

/-! ### Runs without a reset (R35) -/

/-- What every step keeps, every run keeps. -/
theorem run_keeps {P : State → Prop} (hP : ∀ u v, P u → step u = .next v → P v) (n : Nat) (hs : P s)
    (h : run n s = .next t) : P t := by
  induction n generalizing s with
  | zero =>
    injection h with h
    exact h ▸ hs
  | succ n ih =>
    obtain ⟨u, hu, ht⟩ := run_succ_cases h
    exact ih (hP s u hs hu) ht

/-- With no reset among the arrivals, the next event is none. -/
theorem head?_ne_reset (h : ∀ e ∈ s.arrivals, e.IsCommand) : s.arrivals.head? ≠ some .reset :=
  fun hr => h .reset (List.mem_of_head? hr)

/-- A step brings no reset among the arrivals. -/
theorem step_keeps_commands (h : step s = .next t) (hs : ∀ e ∈ s.arrivals, e.IsCommand) :
    ∀ e ∈ t.arrivals, e.IsCommand := by
  obtain ⟨-, rfl⟩ | ⟨rest, ha, rfl⟩ | ⟨host, cmd, rest, u, ha, hu, rfl⟩ := step_next_cases h
  · exact hs
  · exact fun e he => hs e (ha ▸ List.mem_cons_of_mem _ he)
  · obtain ⟨_, _, _, _, _, _, _, _, _, rfl⟩ := (exec_next_cases hu).2.frame
    exact fun e he => hs e (ha ▸ List.mem_cons_of_mem _ he)

/-- Settles O51: every step of the run keeps the constants of the first state and brings no reset. -/
theorem constantsLastUntilReset : Obligations.ConstantsLastUntilReset := by
  intro n s t hc hs h
  have hstep (u v : State) (hu : s.KeepsConstants u ∧ ∀ e ∈ u.arrivals, e.IsCommand) (hv : step u = .next v) :
      s.KeepsConstants v ∧ ∀ e ∈ v.arrivals, e.IsCommand := by
    obtain ⟨hk, he⟩ := hu
    exact ⟨hk.trans (step_keepsConstants (hk.configured_eq.trans hc) hv (head?_ne_reset he)),
      step_keeps_commands hv he⟩
  exact (run_keeps hstep n ⟨.refl s, hs⟩ h).1

/-! ### The Barrett constant and the widths of the constant registers (R22, R23, R24) -/

/-- The Barrett constant lies just above `2^(k+3)` and not above `2^(k+4)`, with `k` the bit length. -/
theorem barrettConstant_bounds {m : Nat} (hm : 1 ≤ m) :
    2 ^ (bitlen m + 3) + 1 ≤ barrettConstant m ∧ barrettConstant m ≤ 2 ^ (bitlen m + 4) := by
  obtain ⟨hpos, hle, hlt⟩ := bitlen_bounds hm
  rw [barrettConstant]
  constructor
  · rw [Nat.le_div_iff_mul_le hm]
    have hsq : 2 ^ (2 * bitlen m + 3) = 8 * (2 ^ bitlen m * 2 ^ bitlen m) := by ring
    have hlin : 2 ^ (bitlen m + 3) = 8 * 2 ^ bitlen m := by ring
    rw [hsq, hlin]
    nlinarith
  · apply Nat.div_le_of_le_mul
    calc 2 ^ (2 * bitlen m + 3) = 2 ^ (bitlen m - 1) * 2 ^ (bitlen m + 4) := by
          rw [← pow_add]
          congr 1
          omega
      _ ≤ m * 2 ^ (bitlen m + 4) := Nat.mul_le_mul_right _ hle

section
variable {W m : Nat} (hv : ValidModulus W m)
include hv

/-- A valid modulus has at most W - 4 bits. -/
theorem bitlen_add_four_le : bitlen m + 4 ≤ W := by
  have h : 2 ^ (bitlen m + 3) < 2 ^ W := (Nat.lt_of_succ_le (barrettConstant_bounds hv.1).1).trans hv.2
  exact (Nat.pow_lt_pow_iff_right Nat.one_lt_two).1 h

/-- A valid modulus fits the port. -/
theorem fitsPort_of_validModulus : FitsPort W m :=
  (bitlen_bounds hv.1).2.2.trans_le
    (Nat.pow_le_pow_right Nat.two_pos ((Nat.le_add_right ..).trans (bitlen_add_four_le hv)))

/-- The contents of MODULUS_BITS and ALPHA fit their registers. -/
theorem bitlen_add_three_fits : FitsPort W (bitlen m + 3) :=
  (Nat.lt_of_succ_le (bitlen_add_four_le hv)).trans Nat.lt_two_pow_self

end

/-- Settles O36, by the bounds of the Barrett constant. -/
theorem constantRegistersStayInRange : Obligations.ConstantRegistersStayInRange := by
  intro s hs hc
  obtain ⟨hv, hbits, halpha, hmu⟩ := hs.constants hc
  obtain ⟨hlo, hhi⟩ := barrettConstant_bounds hv.1
  have hwidth := bitlen_add_four_le hv
  have hpos := (bitlen_bounds hv.1).1
  rw [halpha, hmu, hbits]
  exact ⟨hpos, by omega, by omega, by omega, hlo, hhi⟩

/-! ### The invariant (R33, R34, R201) -/

/-- A state whose registers stand at their reset values meets the invariant. -/
theorem inv_of_registers_at_reset (hl : s.cfg.Legal) (hr : s.ConstantsAtReset) (hc : s.configured = false)
    (hf : s.faulted = false) (hcause : s.cause = 0) : s.Inv where
  legal := hl
  constants h := by rw [hc] at h; cases h
  unconfigured _ := hr
  cause := {
    none_iff := by simp [hf, hcause]
    not_reserved := by simp [hcause]
    range_checked := by simp [hcause, Cause.code] }

/-- The power-on state of a legal configuration meets the invariant. -/
theorem resetFor_inv {c : Config} (hc : c.Legal) : (State.resetFor c).Inv :=
  inv_of_registers_at_reset hc ⟨rfl, rfl, rfl, rfl⟩ rfl rfl rfl

/-- Settles O49: at power-on every register stands at its reset value. -/
theorem resetStateMeetsTheInvariant : Obligations.ResetStateMeetsTheInvariant :=
  ⟨resetFor_inv (by decide), fun _ hc => resetFor_inv hc⟩

/-- Whether FAULTED and CAUSE agree depends on them and on CHECKED alone. -/
theorem State.CauseHolds.of_eq (h : s.CauseHolds) (hcfg : t.cfg = s.cfg) (hf : t.faulted = s.faulted)
    (hc : t.cause = s.cause) : t.CauseHolds where
  none_iff := by rw [hf, hc]; exact h.none_iff
  not_reserved := by rw [hc]; exact h.not_reserved
  range_checked := by rw [hcfg, hc]; exact h.range_checked

/-- Raising a fault makes FAULTED and CAUSE agree, whatever they held. -/
theorem raiseFault_causeHolds {c : Cause} (hc : c = .operandRange → s.cfg.checked = true) :
    (s.raiseFault c).CauseHolds where
  none_iff := iff_of_false (fun h => absurd (code_toNat_pos c) (by rw [show c.code = 0 from h]; decide)) (by simp)
  not_reserved := Nat.lt_succ_of_le (code_toNat_le c)
  range_checked h := hc (code_inj.1 h)

/-- Every instruction keeps the agreement of FAULTED and CAUSE. -/
theorem ExecCase.causeHolds (h : ExecCase s i t) (hs : s.CauseHolds) : t.CauseHolds := by
  cases h with
  | faulted => exact hs.of_eq rfl rfl rfl
  | raised _ c hc => exact raiseFault_causeHolds hc
  | configured => exact hs.of_eq rfl rfl rfl
  | performed => exact hs.of_eq rfl rfl rfl
  | drawn => exact hs.of_eq rfl rfl rfl

/-- A successful CFG establishes the constant invariant: each derived constant fits its register (R33, R101). -/
theorem completeCfg_constantsHold {x : Word s.cfg.W} (hv : ValidModulus s.cfg.W x.toNat) :
    (s.completeCfg x).ConstantsHold := by
  have hbits : (s.completeCfg x).modulusBits.toNat = bitlen x.toNat :=
    toNat_port ((Nat.le_add_right ..).trans_lt (bitlen_add_three_fits hv))
  have halpha : (s.completeCfg x).alpha.toNat = bitlen x.toNat + 3 := toNat_port (bitlen_add_three_fits hv)
  have hmu : (s.completeCfg x).mu.toNat = barrettConstant x.toNat := toNat_port hv.2
  refine ⟨hv, hbits, ?_, ?_⟩
  · rw [halpha, hbits]
  · rw [hmu, hbits]
    rfl

/-- A state with the same constant registers meets the invariant if its FAULTED and CAUSE agree. -/
theorem State.Inv.of_keepsConstants (hs : s.Inv) (hk : s.KeepsConstants t) (hc : t.CauseHolds) : t.Inv := by
  obtain ⟨_, _, _, _, _, _, rfl⟩ := hk
  refine ⟨hs.legal, fun h => ?_, fun h => ?_, hc⟩
  · obtain ⟨hv, hbits, halpha, hmu⟩ := hs.constants h
    exact ⟨hv, hbits, halpha, hmu⟩
  · obtain ⟨hm, hbits, halpha, hmu⟩ := hs.unconfigured h
    exact ⟨hm, hbits, halpha, hmu⟩

/-- Every instruction keeps the invariant. -/
theorem ExecCase.inv (h : ExecCase s i t) (hs : s.Inv) : t.Inv := by
  have hcause := h.causeHolds hs.cause
  obtain hk | ⟨-, -, a, b, -, hv, rfl⟩ := h.keeps_or_completes
  · exact hs.of_keepsConstants hk.keepsConstants hcause
  · rw [← toNat_port (fitsPort_of_validModulus hv)] at hv
    exact ⟨hs.legal, fun _ => completeCfg_constantsHold hv, nofun, hcause⟩

/-- Settles O50: waiting changes nothing, a reset puts the registers at their reset values, and a command keeps the
invariant, whatever is taken from the arrivals and delivered. -/
theorem everyStepKeepsTheInvariant : Obligations.EveryStepKeepsTheInvariant := by
  intro s t hs h
  obtain ⟨-, rfl⟩ | ⟨rest, -, rfl⟩ | ⟨host, cmd, rest, u, -, hu, rfl⟩ := step_next_cases h
  · exact hs
  · exact inv_of_registers_at_reset hs.legal ⟨rfl, rfl, rfl, rfl⟩ rfl rfl rfl
  · have hrest : State.Inv { s with arrivals := rest } :=
      hs.of_keepsConstants (s.keepsConstants_arrivals rest) (hs.cause.of_eq rfl rfl rfl)
    have hui : u.Inv := (exec_next_cases hu).2.inv hrest
    exact hui.of_keepsConstants (u.keepsConstants_deliver host) (hui.cause.of_eq rfl rfl rfl)

end Sys2Proof.Machine
end

section
/-! SUPPORT. The statements of spec/20_memory.md: a successful command writes no register (R44), and the interleaving of
the hosts' plain commands matters to no host (R42, R46). -/

namespace Sys2Proof.Machine

variable {s : State} {i : Instr}

/-! ### A plain command on a ready engine (R44) -/

/-- The value a ready engine answers to a plain command: the operation's datapath on the port words, or the constant
that is read. It looks at the constant registers alone. CFG and the reserved opcodes are never plain, and their 0 is
unused. -/
def State.plainValue (s : State) : Instr → Word s.cfg.W
  | .addm a b => addModFast s.modulus (BitVec.ofNat s.cfg.W a) (BitVec.ofNat s.cfg.W b)
  | .subm a b => subModFast s.modulus (BitVec.ofNat s.cfg.W a) (BitVec.ofNat s.cfg.W b)
  | .mulm a b =>
    barrettMul s.modulus s.modulusBits s.mu s.alpha (BitVec.ofNat s.cfg.W a) (BitVec.ofNat s.cfg.W b)
  | .rdmod _ _ => s.modulus
  | .rdbits _ _ => s.modulusBits
  | .rdmu _ _ => s.mu
  | .rdalpha _ _ => s.alpha
  | .cfg _ _ => 0
  | .reserved _ _ _ => 0

/-- The operand gate of a ready engine lets the operands of an instruction pass when both are in range (R204). -/
theorem gate_ports_of_inRange (hr : s.Ready) (hw : i.WellFormed s.cfg.W)
    (hi : s.InRange i.portA ∧ s.InRange i.portB) (v : Word s.cfg.W) :
    s.gate (BitVec.ofNat s.cfg.W i.portA) (BitVec.ofNat s.cfg.W i.portB) v = s.respondOk v := by
  refine gate_of_inRange hr.2 hr.1 fun ho => ?_
  obtain h | h := (outOfRange_ports_iff hw).1 ho
  · exact Nat.not_le_of_lt hi.1 h
  · exact Nat.not_le_of_lt hi.2 h

/-- A ready engine performs a plain command: it passes the gate, or reads a constant. -/
theorem exec_of_plain (hr : s.Ready) (hp : i.Plain s) (hw : i.WellFormed s.cfg.W) :
    exec i s = .next (s.respondOk (s.plainValue i)) := by
  have read (v : Word s.cfg.W) : s.readConstant v = s.respondOk v := readConstant_of_ready hr.2 hr.1
  cases i with
  | cfg a b => exact hp.elim
  | addm a b => exact (exec_addm hw).trans (congrArg _ (gate_ports_of_inRange hr hw hp _))
  | subm a b => exact (exec_subm hw).trans (congrArg _ (gate_ports_of_inRange hr hw hp _))
  | mulm a b => exact (exec_mulm hw).trans (congrArg _ (gate_ports_of_inRange hr hw hp _))
  | rdmod a b => exact (exec_rdmod hw).trans (congrArg _ (read _))
  | rdbits a b => exact (exec_rdbits hw).trans (congrArg _ (read _))
  | rdmu a b => exact (exec_rdmu hw).trans (congrArg _ (read _))
  | rdalpha a b => exact (exec_rdalpha hw).trans (congrArg _ (read _))
  | reserved low a b => exact hp.elim

/-- Settles O46: whether a command is plain and what it answers depend on registers alone, which the response port, the
arrivals, the deliveries and the number of the draws are not. -/
theorem successfulCommandsWriteNoRegister : Obligations.SuccessfulCommandsWriteNoRegister :=
  fun s i hr hp hw => ⟨s.plainValue i, fun r ev d n =>
    exec_of_plain (s := { s with response := r, arrivals := ev, delivered := d, draws := n }) hr hp hw⟩

/-! ### Sequences of plain commands (R42, R46) -/

/-- The response of a ready engine to a plain command. -/
def State.plainResponse (s : State) (cmd : Command s.cfg.W) : Response s.cfg.W :=
  { result := s.plainValue (decode cmd), status := .ok, cause := 0 }

/-- What a ready engine delivers for a sequence of plain commands. -/
def State.plainDeliveries (s : State) : List (PortEvent s.cfg.W) → List (Delivery s.cfg.W)
  | [] => []
  | .command host cmd :: rest => { host := host, response := s.plainResponse cmd } :: s.plainDeliveries rest
  | .reset :: rest => s.plainDeliveries rest

/-- A step on a plain command delivers its response and writes no register, whatever the port held before. -/
theorem step_of_plain (hr : s.Ready) {host : Nat} {cmd : Command s.cfg.W} (hp : (decode cmd).Plain s)
    (r : Option (Response s.cfg.W)) (rest : List (PortEvent s.cfg.W)) (d : List (Delivery s.cfg.W)) :
    step { s with response := r, arrivals := .command host cmd :: rest, delivered := d } =
      .next { s with
        response := some (s.plainResponse cmd), arrivals := rest,
        delivered := d ++ [{ host := host, response := s.plainResponse cmd }] } := by
  have h := exec_of_plain (s := { s with response := r, arrivals := rest, delivered := d }) hr hp
    (decode_wellFormed cmd)
  exact stepRunsTheDecodedInstruction { s with response := r, delivered := d } host cmd rest _ h

/-- A ready engine performs a sequence of plain commands to its end, writing no register. -/
theorem run_of_plain (hr : s.Ready) (l : List (PortEvent s.cfg.W)) (hl : ∀ e ∈ l, PortEvent.Plain s e)
    (r : Option (Response s.cfg.W)) (d : List (Delivery s.cfg.W)) :
    ∃ r', run l.length { s with response := r, arrivals := l, delivered := d } =
      .next { s with response := r', arrivals := [], delivered := d ++ s.plainDeliveries l } := by
  induction l generalizing r d with
  | nil => exact ⟨r, by rw [State.plainDeliveries, List.append_nil]; rfl⟩
  | cons e rest ih =>
    obtain ⟨he, hrest⟩ := List.forall_mem_cons.1 hl
    cases e with
    | reset => exact he.elim
    | command host cmd =>
      obtain ⟨r', h⟩ := ih hrest (some (s.plainResponse cmd))
        (d ++ [{ host := host, response := s.plainResponse cmd }])
      refine ⟨r', (run_succ _ (step_of_plain hr he r rest d)).trans (h.trans ?_)⟩
      rw [State.plainDeliveries, List.append_assoc, List.singleton_append]

/-- What a host received first stands before what it received later. -/
theorem receivedBy_append {W : Nat} (host : Nat) (d d' : List (Delivery W)) :
    receivedBy host (d ++ d') = receivedBy host d ++ receivedBy host d' := by
  induction d with
  | nil => rfl
  | cons x rest ih =>
    by_cases hx : x.host = host <;> simp [receivedBy, hx, ih]

/-- A host receives the responses to its own commands, in its own order (R42). -/
theorem receivedBy_plainDeliveries (s : State) (host : Nat) (l : List (PortEvent s.cfg.W)) :
    receivedBy host (s.plainDeliveries l) = (commandsOf host l).map s.plainResponse := by
  induction l with
  | nil => rfl
  | cons e rest ih =>
    cases e with
    | reset => exact ih
    | command h cmd =>
      by_cases hh : h = host <;> simp [State.plainDeliveries, receivedBy, commandsOf, hh, ih]

/-- Settles O54: what a host receives is determined by its own commands, of which the two sequences hold the same. -/
theorem responsesDoNotDependOnTheInterleaving : Obligations.ResponsesDoNotDependOnTheInterleaving := by
  intro s l l' hr hl hl' hcmd
  obtain ⟨r, h⟩ := run_of_plain hr l hl s.response s.delivered
  obtain ⟨r', h'⟩ := run_of_plain hr l' hl' s.response s.delivered
  refine ⟨r, r', _, _, h, h', fun host => ?_⟩
  rw [receivedBy_append, receivedBy_append, receivedBy_plainDeliveries, receivedBy_plainDeliveries, hcmd host]

end Sys2Proof.Machine
end

section
/-! SUPPORT. The command word (spec/30_encoding.md R60, R61, R66, R69): three fields packed side by side are read back each
by its own bits, so that the encoder and the decoder undo each other. -/

namespace Sys2Proof

/-! ### Three fields side by side in one word -/

/-- A field above a number leaves the number's bits free. -/
theorem add_field_lt {v e r : Nat} (hv : v < 2 ^ e) (z : BitVec r) : v + z.toNat * 2 ^ e < 2 ^ (e + r) := by
  calc v + z.toNat * 2 ^ e < (z.toNat + 1) * 2 ^ e := by rw [Nat.succ_mul]; omega
    _ ≤ 2 ^ r * 2 ^ e := Nat.mul_le_mul_right _ z.isLt
    _ = 2 ^ (e + r) := by rw [Nat.pow_add, Nat.mul_comm]

section
variable {n p q r e : Nat} (x : BitVec p) (y : BitVec q)

variable (z : BitVec r) (he : e = p + q) (hn : n = e + r)
include he hn

/-- Three fields fit the word that is as long as the three together. -/
theorem toNat_threeFields :
    (BitVec.ofNat n (x.toNat + y.toNat * 2 ^ p + z.toNat * 2 ^ e)).toNat =
      x.toNat + y.toNat * 2 ^ p + z.toNat * 2 ^ e := by
  subst he hn
  exact Machine.toNat_port (add_field_lt (add_field_lt x.isLt y) z)

theorem extractLsb'_lowField :
    (BitVec.ofNat n (x.toNat + y.toNat * 2 ^ p + z.toNat * 2 ^ e)).extractLsb' 0 p = x := by
  apply BitVec.eq_of_toNat_eq
  have hsplit : x.toNat + y.toNat * 2 ^ p + z.toNat * 2 ^ e = x.toNat + 2 ^ p * (y.toNat + 2 ^ q * z.toNat) := by
    rw [he]; ring
  rw [BitVec.extractLsb'_toNat, toNat_threeFields x y z he hn, Nat.shiftRight_zero, hsplit,
    Nat.add_mul_mod_self_left, Nat.mod_eq_of_lt x.isLt]

theorem extractLsb'_middleField :
    (BitVec.ofNat n (x.toNat + y.toNat * 2 ^ p + z.toNat * 2 ^ e)).extractLsb' p q = y := by
  apply BitVec.eq_of_toNat_eq
  have hsplit : x.toNat + y.toNat * 2 ^ p + z.toNat * 2 ^ e = x.toNat + 2 ^ p * (y.toNat + 2 ^ q * z.toNat) := by
    rw [he]; ring
  rw [BitVec.extractLsb'_toNat, toNat_threeFields x y z he hn, Nat.shiftRight_eq_div_pow, hsplit,
    Nat.add_mul_div_left _ _ (Nat.two_pow_pos p), Nat.div_eq_of_lt x.isLt, Nat.zero_add, Nat.add_mul_mod_self_left,
    Nat.mod_eq_of_lt y.isLt]

theorem extractLsb'_highField :
    (BitVec.ofNat n (x.toNat + y.toNat * 2 ^ p + z.toNat * 2 ^ e)).extractLsb' e r = z := by
  apply BitVec.eq_of_toNat_eq
  have hlow : x.toNat + y.toNat * 2 ^ p < 2 ^ e := he ▸ add_field_lt x.isLt y
  rw [BitVec.extractLsb'_toNat, toNat_threeFields x y z he hn, Nat.shiftRight_eq_div_pow,
    Nat.add_mul_div_right _ _ (Nat.two_pow_pos e), Nat.div_eq_of_lt hlow, Nat.zero_add, Nat.mod_eq_of_lt z.isLt]

end

/-- A number is put together again from the three fields its bits are cut into. -/
theorem threeFields_eq (w p q : Nat) :
    w % 2 ^ p + w / 2 ^ p % 2 ^ q * 2 ^ p + w / 2 ^ (p + q) * 2 ^ (p + q) = w := by
  have hlow := Nat.mod_add_div' w (2 ^ p)
  have hhigh := Nat.mod_add_div' (w / 2 ^ p) (2 ^ q)
  rw [Nat.div_div_eq_div_mul, ← Nat.pow_add] at hhigh
  calc _ = w % 2 ^ p + (w / 2 ^ p % 2 ^ q + w / 2 ^ (p + q) * 2 ^ q) * 2 ^ p := by ring
    _ = w := by rw [hhigh, hlow]

/-! ### The fields of an instruction: what the decoder keeps of a command, and gives back -/

section
variable {W : Nat} {i : Instr}

/-- The command that carries an instruction's three fields. -/
def Instr.command (W : Nat) (i : Instr) : Command W :=
  { op := i.opcode, a := BitVec.ofNat W i.portA, b := BitVec.ofNat W i.portB }

/-- The opcode of a reserved instruction is 8 and its low bits (R64). -/
theorem opcode_reserved_toNat (low : BitVec 3) (a b : Nat) : (Instr.reserved low a b).opcode.toNat = 8 + low.toNat := by
  have h : ∀ l : BitVec 3, (0x8 + l.setWidth 4 : Opcode).toNat = 8 + l.toNat := by decide
  exact h low

/-- The low bits of a reserved instruction's opcode are its low bits. -/
theorem opcode_reserved_low (low : BitVec 3) (a b : Nat) : (Instr.reserved low a b).opcode.setWidth 3 = low := by
  have h : ∀ l : BitVec 3, (0x8 + l.setWidth 4 : Opcode).setWidth 3 = l := by decide
  exact h low

/-- Decoding an instruction's own fields gives it back (R61, R66). -/
theorem decode_command (hw : i.WellFormed W) : decode (i.command W) = i := by
  have ha : (i.command W).a.toNat = i.portA := Machine.toNat_port hw.1
  have hb : (i.command W).b.toNat = i.portB := Machine.toNat_port hw.2
  cases i with
  | cfg a b => rw [decode_of_cfg rfl, ha, hb]; rfl
  | addm a b => rw [decode_of_addm rfl, ha, hb]; rfl
  | subm a b => rw [decode_of_subm rfl, ha, hb]; rfl
  | mulm a b => rw [decode_of_mulm rfl, ha, hb]; rfl
  | rdmod a b => rw [decode_of_rdmod rfl, ha, hb]; rfl
  | rdbits a b => rw [decode_of_rdbits rfl, ha, hb]; rfl
  | rdmu a b => rw [decode_of_rdmu rfl, ha, hb]; rfl
  | rdalpha a b => rw [decode_of_rdalpha rfl, ha, hb]; rfl
  | reserved low a b =>
    have hop : 8 ≤ ((Instr.reserved low a b).command W).op.toNat :=
      (opcode_reserved_toNat low a b).symm ▸ Nat.le_add_right ..
    rw [decode_of_reserved hop, ha, hb]
    exact congrArg (Instr.reserved · a b) (opcode_reserved_low low a b)

/-- What the decoder keeps: the opcode, and both operands as they stand (R62, R66); and the mnemonic is the opcode's in
the list of R69. -/
theorem decode_fields (c : Command W) :
    (decode c).mnemonic =
      ["CFG", "ADDM", "SUBM", "MULM", "RDMOD", "RDBITS", "RDMU", "RDALPHA"].getD c.op.toNat "(reserved)" ∧
    (decode c).opcode = c.op ∧ (decode c).portA = c.a.toNat ∧ (decode c).portB = c.b.toNat := by
  obtain h | h | h | h | h | h | h | h | h := opcode_cases c.op
  · rw [decode_of_cfg h, h]; exact ⟨rfl, rfl, rfl, rfl⟩
  · rw [decode_of_addm h, h]; exact ⟨rfl, rfl, rfl, rfl⟩
  · rw [decode_of_subm h, h]; exact ⟨rfl, rfl, rfl, rfl⟩
  · rw [decode_of_mulm h, h]; exact ⟨rfl, rfl, rfl, rfl⟩
  · rw [decode_of_rdmod h, h]; exact ⟨rfl, rfl, rfl, rfl⟩
  · rw [decode_of_rdbits h, h]; exact ⟨rfl, rfl, rfl, rfl⟩
  · rw [decode_of_rdmu h, h]; exact ⟨rfl, rfl, rfl, rfl⟩
  · rw [decode_of_rdalpha h, h]; exact ⟨rfl, rfl, rfl, rfl⟩
  · rw [decode_of_reserved h]
    exact ⟨(List.getD_eq_default _ _ h).symm, reserved_opcode c.op h, rfl, rfl⟩

theorem decode_opcode (c : Command W) : (decode c).opcode = c.op := (decode_fields c).2.1

/-- The fields of a decoded command are the command's (R62, R66). -/
theorem command_decode (c : Command W) : (decode c).command W = c := by
  obtain ⟨-, hop, ha, hb⟩ := decode_fields c
  rw [Instr.command, hop, ha, hb, BitVec.ofNat_toNat, BitVec.ofNat_toNat, BitVec.setWidth_eq, BitVec.setWidth_eq]

/-! ### The command word (R60) -/

theorem wordLength_eq (W : Nat) : 4 + 2 * W = W + 4 + W := by omega

/-- The command word is the sum of R60, with no bit lost. -/
theorem pack_toNat (c : Command W) :
    (pack c).toNat = c.op.toNat + c.a.toNat * 2 ^ 4 + c.b.toNat * 2 ^ (W + 4) :=
  toNat_threeFields c.op c.a c.b (Nat.add_comm W 4) (wordLength_eq W)

/-- The three fields of a packed command are the command's. -/
theorem unpack_pack (c : Command W) : unpack (pack c) = c := by
  have hop : (pack c).extractLsb' 0 4 = c.op :=
    extractLsb'_lowField c.op c.a c.b (Nat.add_comm W 4) (wordLength_eq W)
  have ha : (pack c).extractLsb' 4 W = c.a :=
    extractLsb'_middleField c.op c.a c.b (Nat.add_comm W 4) (wordLength_eq W)
  have hb : (pack c).extractLsb' (W + 4) W = c.b :=
    extractLsb'_highField c.op c.a c.b (Nat.add_comm W 4) (wordLength_eq W)
  rw [unpack, hop, ha, hb]

/-- Packing the three fields of a word gives the word back. -/
theorem pack_unpack (w : BitVec (4 + 2 * W)) : pack (unpack w) = w := by
  have hop : (unpack w).op.toNat = w.toNat % 2 ^ 4 := by simp [unpack]
  have ha : (unpack w).a.toNat = w.toNat / 2 ^ 4 % 2 ^ W := by simp [unpack, Nat.shiftRight_eq_div_pow]
  have hb : (unpack w).b.toNat = w.toNat / 2 ^ (4 + W) := by
    have hlt : w.toNat / 2 ^ (4 + W) < 2 ^ W := by
      apply Nat.div_lt_of_lt_mul
      rw [← Nat.pow_add, show 4 + W + W = 4 + 2 * W by omega]
      exact w.isLt
    simp [unpack, Nat.shiftRight_eq_div_pow, Nat.add_comm W 4, Nat.mod_eq_of_lt hlt]
  rw [pack, hop, ha, hb, Nat.add_comm W 4, threeFields_eq, BitVec.ofNat_toNat, BitVec.setWidth_eq]

/-- The word of a well-formed instruction packs its three fields. -/
theorem encode_eq_pack (hw : i.WellFormed W) : encode W i = pack (i.command W) := by
  rw [pack, Instr.command, Machine.toNat_port hw.1, Machine.toNat_port hw.2, encode]

/-- A word of the length of a command is decoded by its fields. -/
theorem decodeWord_toNat (w : BitVec (4 + 2 * W)) : decodeWord W w.toNat = .ok (decode (unpack w)) := by
  rw [decodeWord, if_pos w.isLt, BitVec.ofNat_toNat, BitVec.setWidth_eq]

end

/-- Settles O1: the command word's fields are the instruction's, and these decode to it. -/
theorem decodeOfEncodeIsTheInstruction : Obligations.DecodeOfEncodeIsTheInstruction := by
  intro W i hw
  rw [decodeWord_toNat, encode_eq_pack hw, unpack_pack, decode_command hw]

/-- Settles O2: the decoder keeps every field of the command, and these pack to the word. -/
theorem encodeOfDecodeIsTheWord : Obligations.EncodeOfDecodeIsTheWord := by
  intro W w
  have hw := decode_wellFormed (unpack w)
  exact ⟨hw, by rw [encode_eq_pack hw, command_decode, pack_unpack]⟩

/-- Settles O3: the word packs the instruction's fields, and unpacking it gives them. -/
theorem commandWordHoldsItsThreeFields : Obligations.CommandWordHoldsItsThreeFields := by
  refine fun W => ⟨fun i hw => ?_, fun word hlong => if_neg (Nat.not_lt_of_le hlong)⟩
  have ha : (i.command W).a.toNat = i.portA := Machine.toNat_port hw.1
  have hb : (i.command W).b.toNat = i.portB := Machine.toNat_port hw.2
  have hfields := unpack_pack (i.command W)
  rw [encode_eq_pack hw]
  refine ⟨by rw [pack_toNat, ha, hb]; rfl, congrArg Command.op hfields, ?_, ?_⟩
  · exact (congrArg (fun c => c.a.toNat) hfields).trans ha
  · exact (congrArg (fun c => c.b.toNat) hfields).trans hb

/-- Settles O4: the mnemonic is read from the list by the opcode, so equal opcodes give equal mnemonics. -/
theorem decodeSelectsByOpcodeAlone : Obligations.DecodeSelectsByOpcodeAlone := by
  refine ⟨fun W c => decode_fields c, fun W V c d hop => ?_⟩
  rw [(decode_fields c).1, (decode_fields d).1, hop]

/-- Each opcode selects one row of the opcode map, the one with its mnemonic in the list of R69. -/
theorem opcodeTable_filter_selects (op : Opcode) :
    ∃ r ∈ opcodeTable, opcodeTable.filter (fun row => row.selects op) = [r] ∧
      r.mnemonic =
        ["CFG", "ADDM", "SUBM", "MULM", "RDMOD", "RDBITS", "RDMU", "RDALPHA"].getD op.toNat "(reserved)" := by
  revert op
  decide

/-- Settles O5: the table and the decoder name an opcode by the same list. -/
theorem opcodeSelectsExactlyOneRow : Obligations.OpcodeSelectsExactlyOneRow := by
  intro W c
  obtain ⟨r, -, hrow, hname⟩ := opcodeTable_filter_selects c.op
  exact ⟨r, hrow, hname.trans (decode_fields c).1.symm⟩

/-- Settles O6: the words are fixed, and the decoder is run on each. -/
theorem specCommandWordsDecode : Obligations.SpecCommandWordsDecode := by
  refine ⟨?_, ?_, ?_, ?_, ?_, ?_, ?_, ?_, ?_, ?_⟩ <;> decide

end Sys2Proof

namespace Sys2Proof.Machine

/-! ### The packed response (R63) -/

/-- Settles O7: the response is packed as three fields of W, 1 and 3 bits. -/
theorem responseWordHoldsItsThreeFields : Obligations.ResponseWordHoldsItsThreeFields :=
  ⟨rfl, rfl, fun _ r => ⟨extractLsb'_lowField r.result r.status.bit r.cause rfl rfl,
    extractLsb'_middleField r.result r.status.bit r.cause rfl rfl,
    extractLsb'_highField r.result r.status.bit r.cause rfl rfl⟩⟩

/-! ### The assembler lines (R67, R68) -/

section
variable {W : Nat} {l : AsmLine} {i : Instr}

/-- A line whose fields are those of a well-formed instruction spells it. -/
theorem assemble_spells (hw : i.WellFormed W) (hl : l.fields = (i.opcode.toNat, i.portA, i.portB)) :
    (l.assemble W).map (fun c => decode c) = some i := by
  rw [AsmLine.assemble, hl]
  dsimp only
  rw [if_pos ⟨i.opcode.isLt, hw⟩, Option.map_some, BitVec.ofNat_toNat, BitVec.setWidth_eq]
  exact congrArg some (decode_command hw)

/-- A line with a field that is no W-bit value spells no command. -/
theorem assemble_spells_none (h : ¬ (FitsPort W l.fields.2.1 ∧ FitsPort W l.fields.2.2)) :
    (l.assemble W).map (fun c => decode c) = none := by
  rw [AsmLine.assemble]
  dsimp only
  rw [if_neg fun hfits => h hfits.2, Option.map_none]

end

/-- Settles O8: a line's fields are those of the instruction it spells; and a literal that does not fit is one of the two
operand fields. -/
theorem assemblerLinesSpellTheirCommands : Obligations.AssemblerLinesSpellTheirCommands := by
  intro W a b
  refine ⟨fun ha hb => ?_, fun ha => ?_⟩
  · have h0 : FitsPort W 0 := Nat.two_pow_pos W
    exact ⟨assemble_spells ⟨ha, h0⟩ rfl, assemble_spells ⟨ha, hb⟩ rfl, assemble_spells ⟨ha, hb⟩ rfl,
      assemble_spells ⟨ha, hb⟩ rfl, assemble_spells ⟨h0, h0⟩ rfl, assemble_spells ⟨h0, h0⟩ rfl,
      assemble_spells ⟨h0, h0⟩ rfl, assemble_spells ⟨h0, h0⟩ rfl,
      fun low => assemble_spells ⟨ha, hb⟩ (by rw [opcode_reserved_toNat]; rfl),
      assemble_spells ⟨h0, ha⟩ rfl, assemble_spells ⟨ha, ha⟩ rfl, assemble_spells ⟨ha, ha⟩ rfl⟩
  · have noA {l : AsmLine} (hl : l.fields.2.1 = a) : (l.assemble W).map (fun c => decode c) = none :=
      assemble_spells_none fun h => ha (hl ▸ h.1)
    have noB {l : AsmLine} (hl : l.fields.2.2 = a) : (l.assemble W).map (fun c => decode c) = none :=
      assemble_spells_none fun h => ha (hl ▸ h.2)
    exact ⟨noA rfl, noA rfl, noA rfl, noA rfl, noB rfl, noB rfl, noB rfl, fun n => ⟨noA rfl, noB rfl⟩, noB rfl,
      noA rfl, noA rfl⟩

/-! ### The reserved opcodes and the ignored fields (R64, R66, R202) -/

/-- A command decodes to a reserved instruction exactly when its opcode is 8 or more. -/
theorem decode_reserved_iff {W : Nat} (c : Command W) :
    8 ≤ c.op.toNat ↔ ∃ low : BitVec 3, decode c = .reserved low c.a.toNat c.b.toNat := by
  refine ⟨fun h => ⟨_, decode_of_reserved h⟩, fun ⟨low, h⟩ => ?_⟩
  rw [← decode_opcode c, h, opcode_reserved_toNat]
  exact Nat.le_add_right ..

/-- Settles O38: the decoder's reserved outcome, and the two paths of a reserved opcode. -/
theorem reservedOpcodesRaiseIllegalOpcode : Obligations.ReservedOpcodesRaiseIllegalOpcode := by
  refine ⟨fun W c => decode_reserved_iff c, fun s low a b ha hb => ⟨fun hf => ?_, fun hf => ?_⟩⟩
  · rw [exec_reserved ⟨ha, hb⟩, refuseOpcode_of_unfaulted hf]
    rfl
  · rw [exec_reserved ⟨ha, hb⟩, refuseOpcode_of_faulted hf]
    rfl

/-- Settles O45: what the instruction does for operands that fit does not name the ignored field. -/
theorem ignoredFieldsDoNotMatter : Obligations.IgnoredFieldsDoNotMatter := by
  intro s a b a' b' low low' ha hb ha' hb'
  refine ⟨?_, ?_, ?_, ?_, ?_, ?_⟩
  · rw [exec_cfg ⟨ha, hb⟩, exec_cfg ⟨ha, hb'⟩]
  · rw [exec_rdmod ⟨ha, hb⟩, exec_rdmod ⟨ha', hb'⟩]
  · rw [exec_rdbits ⟨ha, hb⟩, exec_rdbits ⟨ha', hb'⟩]
  · rw [exec_rdmu ⟨ha, hb⟩, exec_rdmu ⟨ha', hb'⟩]
  · rw [exec_rdalpha ⟨ha, hb⟩, exec_rdalpha ⟨ha', hb'⟩]
  · rw [exec_reserved ⟨ha, hb⟩, exec_reserved ⟨ha', hb'⟩]

end Sys2Proof.Machine
end

section
/-! SUPPORT. The three datapaths on in-range operands (spec/41_modular_adder.md R121; spec/42_modular_subtractor.md R131;
spec/43_modular_multiplier.md R142 to R146), and the answers of the pseudo-commands (spec/30_encoding.md R68). -/

namespace Sys2Proof.Machine

/-! ### Barrett reduction in exact numbers (R142, R144) -/

/-- Step 2 of R142 in exact numbers. -/
def shiftedProduct (k ab : Nat) : Nat := if 2 ≤ k then ab / 2 ^ (k - 2) else ab * 2

/-- Step 3 of R142 in exact numbers, with the shift by `alpha + 2` that is `k + 5`. -/
def quotientEstimate (k mu ab : Nat) : Nat := shiftedProduct k ab * mu / 2 ^ (k + 5)

/-- The three roundings cost the estimate at most one: the product loses less than `p = 2^(k-2)`, the constant less than
`m`, and the last shift less than its power of 2. -/
theorem roundings_lose_at_most_one {p m mu ab t q : Nat} (hlo : 2 * p ≤ m) (hhi : m < 4 * p) (hab : ab < m * m)
    (hmu : mu * m ≤ 128 * (p * p)) (hmu' : 128 * (p * p) < m * (mu + 1)) (ht : t * p ≤ ab) (ht' : ab < p * (t + 1))
    (hq : q * (128 * p) ≤ t * mu) (hq' : t * mu < 128 * p * (q + 1)) :
    q * m ≤ ab ∧ ab < (q + 2) * m := by
  have hp : 0 < 128 * (p * p) := by nlinarith
  constructor
  · have h : 128 * (p * p) * (q * m) ≤ 128 * (p * p) * ab := by
      calc 128 * (p * p) * (q * m) = q * (128 * p) * (p * m) := by ring
        _ ≤ t * mu * (p * m) := Nat.mul_le_mul_right _ hq
        _ = t * p * (mu * m) := by ring
        _ ≤ ab * (128 * (p * p)) := Nat.mul_le_mul ht hmu
        _ = 128 * (p * p) * ab := Nat.mul_comm ..
    exact Nat.le_of_mul_le_mul_left h hp
  · have hconst : t * p * (128 * (p * p)) ≤ t * p * (m * (mu + 1)) := Nat.mul_le_mul_left _ hmu'.le
    have hshift : t * mu * (p * m) < 128 * p * (q + 1) * (p * m) :=
      Nat.mul_lt_mul_of_pos_right hq' (by nlinarith)
    have hsmall : t * p * m ≤ 16 * (p * p) * m := Nat.mul_le_mul_right _ (by nlinarith)
    have h : 128 * (p * p) * ab < 128 * (p * p) * ((q + 2) * m) := by
      calc 128 * (p * p) * ab ≤ 128 * (p * p) * (p * (t + 1)) := Nat.mul_le_mul_left _ ht'.le
        _ = t * p * (128 * (p * p)) + p * (128 * (p * p)) := by ring
        _ ≤ t * p * (m * (mu + 1)) + p * (128 * (p * p)) := Nat.add_le_add_right hconst _
        _ = t * mu * (p * m) + t * p * m + 64 * (p * p) * (2 * p) := by ring
        _ < 128 * p * (q + 1) * (p * m) + 16 * (p * p) * m + 64 * (p * p) * m :=
          Nat.add_lt_add_of_lt_of_le (Nat.add_lt_add_of_lt_of_le hshift hsmall) (Nat.mul_le_mul_left _ hlo)
        _ ≤ 128 * (p * p) * ((q + 2) * m) := by nlinarith [Nat.zero_le (p * p * m)]
    exact Nat.lt_of_mul_lt_mul_left h

/-- A modulus of one bit is 1. -/
theorem eq_one_of_bitlen_lt_two {m : Nat} (hm : 1 ≤ m) (hk : ¬ 2 ≤ bitlen m) : m = 1 := by
  obtain ⟨hpos, -, hlt⟩ := bitlen_bounds hm
  rw [show bitlen m = 1 by omega] at hlt
  omega

section
variable {m a b : Nat} (ha : a < m) (hb : b < m)
include ha

/-- With a one-bit modulus the only in-range operand is 0. -/
theorem product_eq_zero_of_bitlen_lt_two (hk : ¬ 2 ≤ bitlen m) : a * b = 0 := by
  have hm := eq_one_of_bitlen_lt_two (Nat.one_le_of_lt ha) hk
  rw [show a = 0 by omega, Nat.zero_mul]

include hb

theorem product_lt_two_pow : a * b < 2 ^ (2 * bitlen m) := by
  have hlt := (bitlen_bounds (Nat.one_le_of_lt ha)).2.2
  rw [Nat.two_mul, Nat.pow_add]
  exact Nat.mul_lt_mul'' (ha.trans hlt) (hb.trans hlt)

/-- The estimate is at most the quotient, and at most one low (R144). -/
theorem quotientEstimate_bounds :
    quotientEstimate (bitlen m) (barrettConstant m) (a * b) * m ≤ a * b ∧
    a * b < (quotientEstimate (bitlen m) (barrettConstant m) (a * b) + 2) * m := by
  have hm : 1 ≤ m := Nat.one_le_of_lt ha
  by_cases hk : 2 ≤ bitlen m
  · obtain ⟨-, hlo, hhi⟩ := bitlen_bounds hm
    have hp : 0 < 2 ^ (bitlen m - 2) := Nat.two_pow_pos _
    have half : 2 ^ (bitlen m - 1) = 2 * 2 ^ (bitlen m - 2) := by rw [← Nat.pow_succ']; congr 1; omega
    have whole : 2 ^ bitlen m = 4 * 2 ^ (bitlen m - 2) := by
      rw [show (4 : Nat) = 2 ^ 2 from rfl, ← Nat.pow_add, Nat.add_sub_cancel' hk]
    have hshift : 2 ^ (bitlen m + 5) = 128 * 2 ^ (bitlen m - 2) := by rw [Nat.pow_add, whole]; ring
    have hnum : 2 ^ (2 * bitlen m + 3) = 128 * (2 ^ (bitlen m - 2) * 2 ^ (bitlen m - 2)) := by
      rw [Nat.pow_add, Nat.two_mul, Nat.pow_add, whole]; ring
    rw [quotientEstimate, shiftedProduct, if_pos hk, hshift]
    exact roundings_lose_at_most_one (half ▸ hlo) (whole ▸ hhi) (Nat.mul_lt_mul'' ha hb)
      (hnum ▸ Nat.div_mul_le_self ..) (hnum ▸ Nat.lt_mul_div_succ _ hm) (Nat.div_mul_le_self ..)
      (Nat.lt_mul_div_succ _ hp) (Nat.div_mul_le_self ..) (Nat.lt_mul_div_succ _ (by omega))
  · rw [product_eq_zero_of_bitlen_lt_two ha hk]
    exact ⟨by simp [quotientEstimate, shiftedProduct], Nat.mul_pos (Nat.succ_pos _) hm⟩

/-- The shifted product has at most two bits more than the modulus (R143). -/
theorem shiftedProduct_lt : shiftedProduct (bitlen m) (a * b) < 2 ^ (bitlen m + 2) := by
  by_cases hk : 2 ≤ bitlen m
  · rw [shiftedProduct, if_pos hk, Nat.div_lt_iff_lt_mul (Nat.two_pow_pos _), ← Nat.pow_add,
      show bitlen m + 2 + (bitlen m - 2) = 2 * bitlen m by omega]
    exact product_lt_two_pow ha hb
  · rw [shiftedProduct, if_neg hk, product_eq_zero_of_bitlen_lt_two ha hk]
    exact Nat.two_pow_pos _

/-- The shifted product times the constant fits the doubled width with two bits to spare (R143). -/
theorem shiftedProduct_mul_constant_lt :
    shiftedProduct (bitlen m) (a * b) * barrettConstant m < 2 ^ (2 * bitlen m + 6) := by
  rw [show 2 * bitlen m + 6 = (bitlen m + 2) + (bitlen m + 4) by ring, Nat.pow_add]
  exact Nat.mul_lt_mul_of_lt_of_le (shiftedProduct_lt ha hb) (barrettConstant_bounds (Nat.one_le_of_lt ha)).2
    (Nat.two_pow_pos _)

/-- The estimate has at most one bit more than the modulus (R143). -/
theorem quotientEstimate_lt : quotientEstimate (bitlen m) (barrettConstant m) (a * b) < 2 ^ (bitlen m + 1) := by
  rw [quotientEstimate, Nat.div_lt_iff_lt_mul (Nat.two_pow_pos _), ← Nat.pow_add,
    show bitlen m + 1 + (bitlen m + 5) = 2 * bitlen m + 6 by ring]
  exact shiftedProduct_mul_constant_lt ha hb

/-- The remainder of the estimate is below `2m` (R144). -/
theorem estimate_remainder_lt :
    a * b - quotientEstimate (bitlen m) (barrettConstant m) (a * b) * m < 2 * m := by
  obtain ⟨hle, hlt⟩ := quotientEstimate_bounds ha hb
  rw [Nat.add_mul] at hlt
  omega

end

/-- One conditional subtraction of `m` gives the residue of a number below `2m`. -/
theorem sub_once_eq_mod {m v : Nat} (hlt : v < 2 * m) : (if m ≤ v then v - m else v) = v % m := by
  split
  · next h => rw [Nat.mod_eq_sub_mod h, Nat.mod_eq_of_lt (by omega)]
  · next h => rw [Nat.mod_eq_of_lt (Nat.lt_of_not_le h)]

/-! ### Each line of R142 loses nothing while its exact value fits the width on its left (R146) -/

section
variable {W : Nat}

theorem barrettProduct_toNat (x y : Word W) : (barrettProduct x y).toNat = x.toNat * y.toNat := by
  have hlt : x.toNat * y.toNat < 2 ^ (2 * W) := by
    rw [Nat.two_mul, Nat.pow_add]
    exact Nat.mul_lt_mul'' x.isLt y.isLt
  have hle : W ≤ 2 * W := by omega
  rw [barrettProduct, BitVec.toNat_mul, BitVec.toNat_setWidth_of_le hle, BitVec.toNat_setWidth_of_le hle,
    Nat.mod_eq_of_lt hlt]

theorem barrettShifted_toNat (k : Word W) (ab : DWord W) (h : ¬ 2 ≤ k.toNat → ab.toNat * 2 < 2 ^ (2 * W)) :
    (barrettShifted k ab).toNat = shiftedProduct k.toNat ab.toNat := by
  rw [barrettShifted, shiftedProduct]
  split
  · rw [BitVec.toNat_ushiftRight, Nat.shiftRight_eq_div_pow]
  · next hk => rw [BitVec.toNat_shiftLeft, Nat.shiftLeft_eq, Nat.pow_one, Nat.mod_eq_of_lt (h hk)]

theorem barrettQuotient_toNat (mu alpha : Word W) (tmp1 : DWord W) (hp : tmp1.toNat * mu.toNat < 2 ^ (2 * W))
    (hq : tmp1.toNat * mu.toNat / 2 ^ (alpha.toNat + 2) < 2 ^ W) :
    (barrettQuotient mu alpha tmp1).toNat = tmp1.toNat * mu.toNat / 2 ^ (alpha.toNat + 2) := by
  rw [barrettQuotient, BitVec.toNat_setWidth, BitVec.toNat_ushiftRight, BitVec.toNat_mul,
    BitVec.toNat_setWidth_of_le (by omega), Nat.mod_eq_of_lt hp, Nat.shiftRight_eq_div_pow, Nat.mod_eq_of_lt hq]

/-- The wrapping difference is exact, although `ab` and `q*m` may both be wider than W bits. -/
theorem barrettRemainder_toNat (m q : Word W) (ab : DWord W) (hle : q.toNat * m.toNat ≤ ab.toNat)
    (hlt : ab.toNat - q.toNat * m.toNat < 2 ^ W) :
    (barrettRemainder m q ab).toNat = ab.toNat - q.toNat * m.toNat := by
  have hsplit : ab.setWidth W = BitVec.ofNat W (ab.toNat - q.toNat * m.toNat) + q * m := by
    apply BitVec.eq_of_toNat_eq
    rw [BitVec.toNat_setWidth, BitVec.toNat_add, BitVec.toNat_ofNat, BitVec.toNat_mul, ← Nat.add_mod,
      Nat.sub_add_cancel hle]
  rw [barrettRemainder, hsplit, BitVec.add_sub_cancel, toNat_port hlt]

theorem barrettCorrect_toNat (m res : Word W) :
    (barrettCorrect m res).toNat = if m.toNat ≤ res.toNat then res.toNat - m.toNat else res.toNat := by
  rw [barrettCorrect]
  split
  · next h => exact BitVec.toNat_sub_of_le h
  · rfl

end

/-! ### The datapath of an engine whose constants hold, on in-range operands (R146) -/

section
variable {s : State} {x y : Word s.cfg.W} (hc : s.ConstantsHold) (hx : s.InRange x.toNat) (hy : s.InRange y.toNat)
include hc

/-- A remainder below `2m` fits W bits. -/
theorem two_mul_modulus_lt : 2 * s.modulus.toNat < 2 ^ s.cfg.W := by
  obtain ⟨-, -, hlt⟩ := bitlen_bounds hc.modulus_valid.1
  calc 2 * s.modulus.toNat < 2 ^ (bitlen s.modulus.toNat + 1) := by rw [Nat.pow_succ']; omega
    _ ≤ 2 ^ s.cfg.W := Nat.pow_le_pow_right Nat.two_pos
      ((Nat.add_le_add_left (by decide) _).trans (bitlen_add_four_le hc.modulus_valid))

theorem State.ConstantsHold.mu_eq_constant : s.mu.toNat = barrettConstant s.modulus.toNat := by
  rw [hc.mu_eq, hc.bits_eq, barrettConstant]

include hx

/-- Step 2 of the datapath; for a one-bit modulus the product is 0, so that the left shift loses nothing (R147). -/
theorem datapath_shifted_toNat :
    (barrettShifted s.modulusBits (barrettProduct x y)).toNat =
      shiftedProduct s.modulusBits.toNat (x.toNat * y.toNat) := by
  rw [barrettShifted_toNat, barrettProduct_toNat]
  intro hk
  rw [hc.bits_eq] at hk
  rw [barrettProduct_toNat, product_eq_zero_of_bitlen_lt_two hx hk]
  exact Nat.two_pow_pos _

include hy

theorem datapath_quotient_toNat :
    (barrettQuotient s.mu s.alpha (barrettShifted s.modulusBits (barrettProduct x y))).toNat =
      quotientEstimate s.modulusBits.toNat s.mu.toNat (x.toNat * y.toNat) := by
  have hwidth := bitlen_add_four_le hc.modulus_valid
  have hshifted := datapath_shifted_toNat hc (y := y) hx
  have hp := shiftedProduct_mul_constant_lt hx hy
  have hq := quotientEstimate_lt hx hy
  rw [← hc.bits_eq, ← hc.mu_eq_constant] at hp hq
  rw [← hc.bits_eq] at hwidth
  rw [quotientEstimate] at hq ⊢
  rw [barrettQuotient_toNat, hshifted, hc.alpha_eq]
  · rw [hshifted]
    exact hp.trans_le (Nat.pow_le_pow_right Nat.two_pos (by omega))
  · rw [hshifted, hc.alpha_eq]
    exact hq.trans_le (Nat.pow_le_pow_right Nat.two_pos (by omega))

/-- The estimate of the machine's constants is at most the quotient, and its remainder is below `2m` (R144). -/
theorem estimate_bounds :
    quotientEstimate s.modulusBits.toNat s.mu.toNat (x.toNat * y.toNat) * s.modulus.toNat ≤ x.toNat * y.toNat ∧
    x.toNat * y.toNat - quotientEstimate s.modulusBits.toNat s.mu.toNat (x.toNat * y.toNat) * s.modulus.toNat <
      2 * s.modulus.toNat := by
  rw [hc.bits_eq, hc.mu_eq_constant]
  exact ⟨(quotientEstimate_bounds hx hy).1, estimate_remainder_lt hx hy⟩

theorem datapath_remainder_toNat :
    (barrettRemainder s.modulus
        (barrettQuotient s.mu s.alpha (barrettShifted s.modulusBits (barrettProduct x y))) (barrettProduct x y)).toNat =
      x.toNat * y.toNat -
        quotientEstimate s.modulusBits.toNat s.mu.toNat (x.toNat * y.toNat) * s.modulus.toNat := by
  obtain ⟨hle, hlt⟩ := estimate_bounds hc hx hy
  rw [barrettRemainder_toNat, barrettProduct_toNat, datapath_quotient_toNat hc hx hy]
  · rwa [barrettProduct_toNat, datapath_quotient_toNat hc hx hy]
  · rw [barrettProduct_toNat, datapath_quotient_toNat hc hx hy]
    exact hlt.trans (two_mul_modulus_lt hc)

/-- The datapath of MULM computes the modular product (R145). -/
theorem barrettMul_toNat :
    (barrettMul s.modulus s.modulusBits s.mu s.alpha x y).toNat = x.toNat * y.toNat % s.modulus.toNat := by
  obtain ⟨hle, hlt⟩ := estimate_bounds hc hx hy
  rw [barrettMul, barrettCorrect_toNat, datapath_remainder_toNat hc hx hy, sub_once_eq_mod hlt,
    Nat.mul_comm _ s.modulus.toNat, Nat.sub_mul_mod (by rwa [Nat.mul_comm])]

end

/-! ### What a ready engine answers to ADDM, SUBM and MULM (R121, R131, R141) -/

section
variable {W : Nat} {m x y : Word W} (hx : x.toNat < m.toNat) (hy : y.toNat < m.toNat)
include hx hy

theorem addModFast_toNat : (addModFast m x y).toNat = (x.toNat + y.toNat) % m.toNat := by
  have hres := sub_once_eq_mod (m := m.toNat) (v := x.toNat + y.toNat) (by omega)
  rw [addModFast, hres]
  exact toNat_port ((Nat.mod_lt _ (Nat.zero_lt_of_lt hx)).trans m.isLt)

theorem subModFast_toNat : (subModFast m x y).toNat = (x.toNat + (m.toNat - y.toNat)) % m.toNat := by
  have hres : (if y.toNat ≤ x.toNat then x.toNat - y.toNat else x.toNat + m.toNat - y.toNat) =
      (x.toNat + (m.toNat - y.toNat)) % m.toNat := by
    split
    · rw [show x.toNat + (m.toNat - y.toNat) = x.toNat - y.toNat + m.toNat by omega, Nat.add_mod_right,
        Nat.mod_eq_of_lt (by omega)]
    · rw [Nat.mod_eq_of_lt (by omega)]
      omega
  rw [subModFast, hres]
  exact toNat_port ((Nat.mod_lt _ (Nat.zero_lt_of_lt hx)).trans m.isLt)

end

section
variable {s : State} {a b : Nat}

theorem answers_of_plain {i : Instr} (hr : s.Ready) (hp : i.Plain s) (hw : i.WellFormed s.cfg.W) :
    s.Answers i (s.plainValue i).toNat :=
  ⟨s.plainValue i, rfl, exec_of_plain hr hp hw⟩

/-- An in-range operand fits the port. -/
theorem fitsPort_of_inRange (ha : s.InRange a) : FitsPort s.cfg.W a := ha.trans s.modulus.isLt

/-- An in-range operand is in range on its port. -/
theorem inRange_port (ha : s.InRange a) : s.InRange (BitVec.ofNat s.cfg.W a).toNat :=
  (toNat_port (fitsPort_of_inRange ha)).symm ▸ ha

variable (hr : s.Ready) (ha : s.InRange a) (hb : s.InRange b)
include hr ha hb

theorem answers_addm : s.Answers (.addm a b) ((a + b) % s.modulus.toNat) := by
  have h := answers_of_plain (i := .addm a b) hr ⟨ha, hb⟩ ⟨fitsPort_of_inRange ha, fitsPort_of_inRange hb⟩
  rwa [State.plainValue, addModFast_toNat (inRange_port ha) (inRange_port hb), toNat_port (fitsPort_of_inRange ha),
    toNat_port (fitsPort_of_inRange hb)] at h

theorem answers_subm : s.Answers (.subm a b) ((a + (s.modulus.toNat - b)) % s.modulus.toNat) := by
  have h := answers_of_plain (i := .subm a b) hr ⟨ha, hb⟩ ⟨fitsPort_of_inRange ha, fitsPort_of_inRange hb⟩
  rwa [State.plainValue, subModFast_toNat (inRange_port ha) (inRange_port hb), toNat_port (fitsPort_of_inRange ha),
    toNat_port (fitsPort_of_inRange hb)] at h

theorem answers_mulm (hc : s.ConstantsHold) : s.Answers (.mulm a b) (a * b % s.modulus.toNat) := by
  have h := answers_of_plain (i := .mulm a b) hr ⟨ha, hb⟩ ⟨fitsPort_of_inRange ha, fitsPort_of_inRange hb⟩
  rwa [State.plainValue, barrettMul_toNat hc (inRange_port ha) (inRange_port hb), toNat_port (fitsPort_of_inRange ha),
    toNat_port (fitsPort_of_inRange hb)] at h

end

/-- Settles O34: each pseudo-command's line spells its expansion, and the expansion answers the residue. -/
theorem pseudoCommandsAnswer : Obligations.PseudoCommandsAnswer := by
  intro s x hs hr hx
  have hfit : FitsPort s.cfg.W x := fitsPort_of_inRange hx
  have hzero : s.InRange 0 := Nat.zero_lt_of_lt hx
  refine ⟨⟨assemble_spells ⟨fitsPort_of_inRange hzero, hfit⟩ rfl, ?_⟩, ⟨assemble_spells ⟨hfit, hfit⟩ rfl, ?_⟩,
    ⟨assemble_spells ⟨hfit, hfit⟩ rfl, ?_⟩⟩
  · have h := answers_subm hr hzero hx
    rwa [Nat.zero_add] at h
  · rw [Nat.two_mul]
    exact answers_addm hr hx hx
  · rw [Nat.pow_two]
    exact answers_mulm hr hx hx (hs.constants hr.1)

end Sys2Proof.Machine
end

section
/-! SUPPORT. The statements of spec/40_barrett_reduction_engine.md: the Barrett constant (R102, R105), the valid moduli
(R104, R109), and CFG (R100, R101, R103). -/

namespace Sys2Proof.Machine

/-! ### The bit length by powers of 2 (R12) -/

/-- A positive number has at most `n` bits exactly when it is below `2^n`. -/
theorem bitlen_le_iff {v n : Nat} (hv : 1 ≤ v) : bitlen v ≤ n ↔ v < 2 ^ n := by
  have hne : v ≠ 0 := Nat.one_le_iff_ne_zero.1 hv
  rw [bitlen, if_neg hne]
  exact Nat.log2_lt hne

/-- The numbers of `n + 1` bits are those from `2^n` to below `2^(n+1)`. -/
theorem bitlen_eq_succ {v n : Nat} (hle : 2 ^ n ≤ v) (hlt : v < 2 ^ (n + 1)) : bitlen v = n + 1 := by
  have hv : 1 ≤ v := Nat.one_le_two_pow.trans hle
  have hupper : bitlen v ≤ n + 1 := (bitlen_le_iff hv).2 hlt
  have hlower : ¬ bitlen v ≤ n := fun h => Nat.not_lt_of_le hle ((bitlen_le_iff hv).1 h)
  omega

theorem bitlen_two_pow (n : Nat) : bitlen (2 ^ n) = n + 1 :=
  bitlen_eq_succ le_rfl (Nat.pow_lt_pow_succ Nat.one_lt_two)

theorem bitlen_two_pow_succ_sub_one (n : Nat) : bitlen (2 ^ (n + 1) - 1) = n + 1 := by
  have hpos := Nat.two_pow_pos n
  have hdouble : 2 ^ (n + 1) = 2 * 2 ^ n := Nat.pow_succ'
  exact bitlen_eq_succ (by omega) (by omega)

/-! ### The Barrett constant at its upper bound, and when it fits W bits (R105) -/

section
variable {m : Nat} (hm : 1 ≤ m)
include hm

/-- The constant stays below its bound exactly when the modulus lies above the least number of its bit length. -/
theorem barrettConstant_lt_bound_iff :
    barrettConstant m < 2 ^ (bitlen m + 4) ↔ 2 ^ (bitlen m - 1) < m := by
  have hpos := (bitlen_bounds hm).1
  have hsplit : 2 ^ (2 * bitlen m + 3) = 2 ^ (bitlen m - 1) * 2 ^ (bitlen m + 4) := by
    rw [← pow_add]
    congr 1
    omega
  rw [barrettConstant, Nat.div_lt_iff_lt_mul hm, hsplit, Nat.mul_comm (2 ^ (bitlen m + 4)) m]
  exact Nat.mul_lt_mul_right (Nat.two_pow_pos _)

/-- The bound is reached by the powers of 2 alone. -/
theorem barrettConstant_eq_bound_iff :
    barrettConstant m = 2 ^ (bitlen m + 4) ↔ m = 2 ^ (bitlen m - 1) := by
  have hbound := (barrettConstant_bounds hm).2
  have hle := (bitlen_bounds hm).2.1
  have hlt := barrettConstant_lt_bound_iff hm
  omega

/-- Fewer than W - 4 bits always fit, more never do, and W - 4 bits do unless the bound is reached. -/
theorem barrettConstant_lt_two_pow_iff {W : Nat} (hW : 8 ≤ W) :
    barrettConstant m < 2 ^ W ↔ bitlen m ≤ W - 5 ∨ (bitlen m = W - 4 ∧ m ≠ 2 ^ (W - 5)) := by
  obtain ⟨hlo, hhi⟩ := barrettConstant_bounds hm
  obtain hfew | heq | hmany : bitlen m ≤ W - 5 ∨ bitlen m = W - 4 ∨ W ≤ bitlen m + 3 := by omega
  · have hfit : 2 ^ (bitlen m + 4) < 2 ^ W := Nat.pow_lt_pow_right Nat.one_lt_two (by omega)
    exact iff_of_true (hhi.trans_lt hfit) (.inl hfew)
  · have hreached := barrettConstant_eq_bound_iff hm
    rw [show bitlen m + 4 = W by omega, show bitlen m - 1 = W - 5 by omega] at hreached
    rw [show bitlen m + 4 = W by omega] at hhi
    omega
  · have hover : 2 ^ W ≤ 2 ^ (bitlen m + 3) := Nat.pow_le_pow_right Nat.two_pos hmany
    exact iff_of_false (by omega) (by omega)

end

/-- Settles O19, by the bounds, the case of equality, and the widths below, at and above the bound. -/
theorem barrettConstantBounds : Obligations.BarrettConstantBounds := by
  intro m hm
  obtain ⟨-, hle, hlt⟩ := bitlen_bounds hm
  obtain ⟨hlo, hhi⟩ := barrettConstant_bounds hm
  exact ⟨hle, hlt, hlo, hhi, barrettConstant_eq_bound_iff hm, fun _ => barrettConstant_lt_two_pow_iff hm⟩

/-! ### The valid moduli (R104) -/

/-- The closed form: a modulus of W - 4 bits or fewer, but for the one power of 2 whose constant is `2^W`. -/
theorem validModulus_iff {W a : Nat} (hW : 8 ≤ W) :
    ValidModulus W a ↔ 1 ≤ a ∧ a < 2 ^ (W - 4) ∧ a ≠ 2 ^ (W - 5) := by
  refine and_congr_right fun ha => ?_
  have hbits := bitlen_le_iff ha (n := W - 4)
  have hfewer := bitlen_le_iff ha (n := W - 5)
  rw [barrettConstant_lt_two_pow_iff ha hW]
  omega

/-- A power of 2 reaches the bound, so the constant of the exception `2^(W-5)` is the least that does not fit. -/
theorem barrettConstant_two_pow (n : Nat) : barrettConstant (2 ^ n) = 2 ^ (n + 5) := by
  have hreached := barrettConstant_eq_bound_iff (m := 2 ^ n) Nat.one_le_two_pow
  rw [bitlen_two_pow] at hreached
  exact hreached.2 rfl

/-- Settles O20: every clause is read off the closed form, with the bit lengths turned into powers of 2. -/
theorem validModulusClosedForm : Obligations.ValidModulusClosedForm := by
  intro W a hW
  have hsucc : W - 5 + 1 = W - 4 := by omega
  have hdouble : 2 ^ (W - 4) = 2 * 2 ^ (W - 5) := by rw [← hsucc, Nat.pow_succ']
  have hlarge : 8 ≤ 2 ^ (W - 5) := Nat.pow_le_pow_right Nat.two_pos (show 3 ≤ W - 5 by omega)
  have hclosed := validModulus_iff (a := a) hW
  refine ⟨Iff.rfl, hclosed, fun hv => Nat.le_sub_of_add_le (bitlen_add_four_le hv), fun ha hbits => ?fewerBits,
    fun hbits => ?allBits, ?exceptionBits, ?exceptionConstant, ⟨?largestBits, ?largestValid, fun hv => ?largest⟩,
    ?exceptionInvalid, fun ha hv => ?smallestInvalid⟩
  case fewerBits => exact ⟨ha, (barrettConstant_lt_two_pow_iff ha hW).2 (.inl hbits)⟩
  case allBits =>
    have ha : 1 ≤ a := Nat.one_le_iff_ne_zero.2 (by rintro rfl; rw [bitlen, if_pos rfl] at hbits; omega)
    have hlt := (bitlen_le_iff ha).1 hbits.le
    rw [hclosed]
    omega
  case exceptionBits => rw [bitlen_two_pow, hsucc]
  case exceptionConstant => rw [barrettConstant_two_pow, Nat.sub_add_cancel (by omega)]
  case largestBits => rw [← hsucc, bitlen_two_pow_succ_sub_one]
  case largestValid => rw [validModulus_iff hW]; omega
  case largest => rw [hclosed] at hv; omega
  case exceptionInvalid => rw [validModulus_iff hW]; exact fun h => h.2.2 rfl
  case smallestInvalid => rw [hclosed] at hv; omega

/-! ### CFG (R100, R101, R103) -/

section
variable {s : State} {a b : Nat} (ha : FitsPort s.cfg.W a) (hb : FitsPort s.cfg.W b)
include ha hb

/-- CFG with an invalid modulus on an engine neither faulted nor configured raises INVALID_MODULUS (R103). -/
theorem exec_cfg_of_invalid (hf : s.faulted = false) (hc : s.configured = false) (hv : ¬ ValidModulus s.cfg.W a) :
    exec (.cfg a b) s = .next (s.raiseFault .invalidModulus) := by
  rw [← toNat_port ha] at hv
  rw [exec_cfg ⟨ha, hb⟩, configure_of_invalid hf hc hv]

/-- CFG with a valid modulus on an engine neither faulted nor configured succeeds (R101). -/
theorem exec_cfg_of_valid (hf : s.faulted = false) (hc : s.configured = false) (hv : ValidModulus s.cfg.W a) :
    exec (.cfg a b) s = .next (s.completeCfg (BitVec.ofNat s.cfg.W a)) := by
  rw [← toNat_port ha] at hv
  rw [exec_cfg ⟨ha, hb⟩, configure_of_valid hf hc hv]

end

/-- The writes of a successful CFG, with the constants derived from the number that was put on port A. -/
theorem completeCfg_port {s : State} {a : Nat} (ha : FitsPort s.cfg.W a) :
    s.completeCfg (BitVec.ofNat s.cfg.W a) = { s with
      modulus := BitVec.ofNat s.cfg.W a
      modulusBits := BitVec.ofNat s.cfg.W (bitlen a)
      alpha := BitVec.ofNat s.cfg.W (bitlen a + 3)
      mu := BitVec.ofNat s.cfg.W (barrettConstant a)
      configured := true
      response := some { result := 0, status := .ok, cause := noCause } } := by
  rw [State.completeCfg, toNat_port ha]

/-- Settles O18, by the paths of CFG in their order. -/
theorem cfgConfiguresOnceWithAValidModulus : Obligations.CfgConfiguresOnceWithAValidModulus := by
  intro s a b ha hb
  refine ⟨rfl, fun hf => ?_, fun hf hc => ?_, fun hf hc hv => ?_, fun hf hc hv => ?_⟩
  · rw [exec_cfg ⟨ha, hb⟩, configure_of_faulted hf]
    rfl
  · rw [exec_cfg ⟨ha, hb⟩, configure_of_configured hf hc]
    rfl
  · exact exec_cfg_of_invalid ha hb hf hc hv
  · rw [exec_cfg_of_valid ha hb hf hc hv, completeCfg_port ha]
    rfl

/-! ### The source's closed-form check (R109) -/

theorem bitlen_sourceModulus : bitlen (2 ^ 61 - 1) = 61 := bitlen_two_pow_succ_sub_one 60

theorem barrettConstant_sourceModulus : barrettConstant (2 ^ 61 - 1) = 2 ^ 64 + 8 := by
  rw [barrettConstant, bitlen_sourceModulus]
  norm_num

/-- The constant of `2^61 - 1` is above `2^64`, so it fits no width up to 64. -/
theorem not_validModulus_sourceModulus {W : Nat} (hW : W ≤ 64) : ¬ ValidModulus W (2 ^ 61 - 1) := by
  rintro ⟨-, hfit⟩
  rw [barrettConstant_sourceModulus] at hfit
  have hwidth : 2 ^ W ≤ 2 ^ 64 := Nat.pow_le_pow_right Nat.two_pos hW
  omega

/-- Settles O21: the constant is evaluated once, and CFG refuses it as an invalid modulus. -/
theorem closedFormCheckOfTheSource : Obligations.ClosedFormCheckOfTheSource := by
  refine ⟨bitlen_sourceModulus, congrArg (· + 3) bitlen_sourceModulus, by norm_num,
    barrettConstant_sourceModulus, ?_, fun W => not_validModulus_sourceModulus, ⟨by norm_num, ?_⟩,
    fun s b hW hb hf hc => ?_⟩
  · rw [barrettConstant_sourceModulus]
    exact bitlen_eq_succ (by norm_num) (by norm_num)
  · rw [barrettConstant_sourceModulus]
    norm_num
  · have ha : FitsPort s.cfg.W 2305843009213693951 := by rw [hW, FitsPort]; norm_num
    exact exec_cfg_of_invalid ha (hW ▸ hb) hf hc (not_validModulus_sourceModulus hW.le)

end Sys2Proof.Machine
end

section
/-! SUPPORT. The statements of spec/41_modular_adder.md: what ADDM answers (R123), the widths of the adder and of the
subtractor (R122, R132), and the laws of ADDM and SUBM (R125, R135). -/

namespace Sys2Proof.Machine

/-- The whole next state of an instruction that answers `v`: the result is `v` on W bits. -/
theorem State.Answers.exec_eq {s : State} {i : Instr} {v : Nat} (h : s.Answers i v) :
    exec i s = .next { s with response := some { result := BitVec.ofNat s.cfg.W v, status := .ok, cause := 0 } } := by
  obtain ⟨r, rfl, hexec⟩ := h
  rwa [BitVec.ofNat_toNat, BitVec.setWidth_eq]

/-- Settles O25: the value that ADDM answers fixes the whole next state. -/
theorem addmAnswersTheModularSum : Obligations.AddmAnswersTheModularSum := fun _ _ _ hr ha hb =>
  ⟨Nat.mod_lt _ (Nat.zero_lt_of_lt ha), (answers_addm hr ha hb).exec_eq⟩

/-- Settles O27: a valid modulus lies below `2^(W-4)`, so its double lies below `2^(W-3)`, and the sums below its
double. -/
theorem adderAndSubtractorIntermediatesFit : Obligations.AdderAndSubtractorIntermediatesFit := by
  intro W m a b hW hv ha hb
  have hm : m < 2 ^ (W - 4) := ((validModulus_iff hW).1 hv).2.1
  have hdouble : 2 ^ (W - 3) = 2 * 2 ^ (W - 4) := by rw [show W - 3 = W - 4 + 1 by omega, Nat.pow_succ']
  omega

/-! ### The laws of ADDM and SUBM (R125, R135) -/

/-- Adding back what was taken off gives the number itself, modulo `m`. -/
theorem sub_mod_add_cancel {m a b : Nat} (ha : a < m) (hb : b < m) : ((a + (m - b)) % m + b) % m = a := by
  rw [Nat.mod_add_mod, Nat.add_assoc, Nat.sub_add_cancel hb.le, Nat.add_mod_right, Nat.mod_eq_of_lt ha]

/-- The two differences of two numbers are inverse to each other, modulo `m`. -/
theorem sub_mod_add_sub_mod {m a b : Nat} (ha : a < m) (hb : b < m) :
    ((a + (m - b)) % m + (b + (m - a)) % m) % m = 0 := by
  rw [← Nat.add_mod, show a + (m - b) + (b + (m - a)) = m + m by omega, Nat.add_mod_right, Nat.mod_self]

section
variable {s : State} {a : Nat} (hr : s.Ready) (ha : s.InRange a)
include hr ha

theorem answers_addm_zero : s.Answers (.addm a 0) a := by
  have h := answers_addm hr ha (Nat.zero_lt_of_lt ha)
  rwa [Nat.add_zero, Nat.mod_eq_of_lt ha] at h

theorem answers_subm_zero : s.Answers (.subm a 0) a := by
  have h := answers_subm hr ha (Nat.zero_lt_of_lt ha)
  rwa [Nat.sub_zero, Nat.add_mod_right, Nat.mod_eq_of_lt ha] at h

end

section
variable {s : State} {a b : Nat} (hr : s.Ready) (ha : s.InRange a) (hb : s.InRange b)
include hr ha hb

/-- ADDM of a difference and its subtrahend answers the minuend. -/
theorem answers_addm_difference : s.Answers (.addm ((a + (s.modulus.toNat - b)) % s.modulus.toNat) b) a := by
  have h := answers_addm hr (Nat.mod_lt (a + (s.modulus.toNat - b)) (Nat.zero_lt_of_lt ha)) hb
  rwa [sub_mod_add_cancel ha hb] at h

/-- ADDM of the two differences of two operands answers 0. -/
theorem answers_addm_differences :
    s.Answers (.addm ((a + (s.modulus.toNat - b)) % s.modulus.toNat) ((b + (s.modulus.toNat - a)) % s.modulus.toNat))
      0 := by
  have hpos : 0 < s.modulus.toNat := Nat.zero_lt_of_lt ha
  have h := answers_addm hr (Nat.mod_lt (a + (s.modulus.toNat - b)) hpos) (Nat.mod_lt (b + (s.modulus.toNat - a)) hpos)
  rwa [sub_mod_add_sub_mod ha hb] at h

end

/-- SUBM is not commutative: its answers at the modulus 17. -/
theorem answers_subm_seventeen {s : State} (hr : s.Ready) (hm : s.modulus.toNat = 17) :
    s.Answers (.subm 10 12) 15 ∧ s.Answers (.subm 12 10) 2 := by
  have hten : s.InRange 10 := by rw [State.InRange, hm]; decide
  have htwelve : s.InRange 12 := by rw [State.InRange, hm]; decide
  have hlow := answers_subm hr hten htwelve
  have hhigh := answers_subm hr htwelve hten
  rw [hm] at hlow hhigh
  exact ⟨hlow, hhigh⟩

/-- Settles O28: the inverse of `a` is its difference from 0, and the other laws are the lemmas above. -/
theorem additionAndSubtractionLaws : Obligations.AdditionAndSubtractionLaws := by
  intro s a b hr ha hb
  have hzero : s.InRange 0 := Nat.zero_lt_of_lt ha
  refine ⟨⟨_, answers_addm hr ha hb, ?commuted⟩, answers_addm_zero hr ha, ⟨_, answers_subm hr hzero ha, ?inverse⟩,
    ⟨_, _, answers_subm hr ha hb, answers_subm hr hb ha, answers_addm_difference hr ha hb,
      answers_addm_differences hr ha hb⟩, answers_subm_zero hr ha, answers_subm_seventeen hr⟩
  case commuted =>
    rw [Nat.add_comm a b]
    exact answers_addm hr hb ha
  case inverse =>
    have h := answers_addm hr ha (Nat.mod_lt (0 + (s.modulus.toNat - a)) hzero)
    rwa [Nat.add_comm a, sub_mod_add_cancel hzero ha] at h

end Sys2Proof.Machine
end

section
/-! SUPPORT. The statement of spec/42_modular_subtractor.md: what SUBM answers (R133). -/

namespace Sys2Proof.Machine

/-- The difference taken over the naturals, with `m` added first, is the residue of the integer difference. -/
theorem natCast_sub_mod {m a b : Nat} (hb : b ≤ m) :
    (((a + (m - b)) % m : Nat) : Int) = ((a : Int) - (b : Int)) % (m : Int) := by
  have hshift : ((a + (m - b) : Nat) : Int) = (a : Int) - (b : Int) + (m : Int) := by omega
  rw [Int.natCast_mod, hshift, Int.add_emod_right]

/-- When the subtraction borrows, adding `m` once already gives the residue. -/
theorem sub_mod_of_lt {m a b : Nat} (hab : a < b) (hb : b ≤ m) : (a + (m - b)) % m = a + m - b := by
  rw [← Nat.add_sub_assoc hb, Nat.mod_eq_of_lt (by omega)]

/-- Settles O26: SUBM answers the natural-number form of the residue, and the value fixes the whole next state. -/
theorem submAnswersTheModularDifference : Obligations.SubmAnswersTheModularDifference := by
  intro s a b hr ha hb
  have hle : b ≤ s.modulus.toNat := Nat.le_of_lt hb
  refine ⟨_, Nat.mod_lt _ (Nat.zero_lt_of_lt ha), natCast_sub_mod hle, fun hab => ?borrow,
    (answers_subm hr ha hb).exec_eq⟩
  case borrow =>
    rw [sub_mod_of_lt hab hle]
    omega

end Sys2Proof.Machine
end

section
/-! SUPPORT. The statements of spec/43_modular_multiplier.md: the quotient estimate (R144), the widths of the
intermediates (R143), the datapath in its three forms (R146), and what MULM answers (R145, R149). -/

namespace Sys2Proof.Machine

/-! ### An estimate whose remainder lies in `[0, 2m)` (R144, R145) -/

section
variable {m ab q : Nat} (hle : q * m ≤ ab) (hlt : ab < (q + 2) * m)
include hle hlt

/-- Such an estimate is the true quotient or one less. -/
theorem estimate_le_quotient_le_succ : q ≤ ab / m ∧ ab / m ≤ q + 1 := by
  have hm : 0 < m := Nat.pos_of_lt_mul_left hlt
  exact ⟨(Nat.le_div_iff_mul_le hm).2 hle, Nat.le_of_lt_succ ((Nat.div_lt_iff_lt_mul hm).2 hlt)⟩

/-- The remainder reaches `m` exactly when the estimate is one low. -/
theorem modulus_le_remainder_iff : m ≤ ab - q * m ↔ q + 1 = ab / m := by
  have hupper := (estimate_le_quotient_le_succ hle hlt).2
  calc m ≤ ab - q * m ↔ (q + 1) * m ≤ ab := by rw [Nat.le_sub_iff_add_le' hle, Nat.succ_mul]
    _ ↔ q + 1 ≤ ab / m := (Nat.le_div_iff_mul_le (Nat.pos_of_lt_mul_left hlt)).symm
    _ ↔ q + 1 = ab / m := ⟨fun h => Nat.le_antisymm h hupper, Nat.le_of_eq⟩

end

/-- Settles O29: the estimate's product with `m` is at most `ab`, and adding two to the estimate passes it. -/
theorem barrettQuotientIsAtMostOneLow : Obligations.BarrettQuotientIsAtMostOneLow := by
  intro m a b hk ha hb q
  have hq : quotientEstimate (bitlen m) (barrettConstant m) (a * b) = q := by
    rw [quotientEstimate, shiftedProduct, if_pos hk]
  obtain ⟨hle, hlt⟩ := quotientEstimate_bounds ha hb
  have hrem := estimate_remainder_lt ha hb
  rw [hq] at hle hlt hrem
  obtain ⟨hlow, hhigh⟩ := estimate_le_quotient_le_succ hle hlt
  exact ⟨hlow, hhigh, hle, hrem⟩

/-! ### The widths of the intermediates (R143) -/

section
variable {m a b : Nat} (ha : a < m) (hb : b < m)
include ha hb

theorem product_le_pred_sq : a * b ≤ (m - 1) ^ 2 := by
  rw [Nat.pow_two]
  exact Nat.mul_le_mul (Nat.le_sub_one_of_lt ha) (Nat.le_sub_one_of_lt hb)

theorem quotient_le_pred : a * b / m ≤ m - 1 :=
  Nat.le_sub_one_of_lt (Nat.div_lt_of_lt_mul (Nat.mul_lt_mul'' ha hb))

end

theorem sq_lt_two_pow {m : Nat} (hm : 1 ≤ m) : m ^ 2 < 2 ^ (2 * bitlen m) := by
  rw [Nat.mul_comm, Nat.pow_mul]
  exact Nat.pow_lt_pow_left (bitlen_bounds hm).2.2 two_ne_zero

/-- Settles O30: the bounds by the bit length are those of the exact numbers, and a valid modulus has at most W - 4
bits. -/
theorem barrettIntermediateBounds : Obligations.BarrettIntermediateBounds := by
  intro W m a b hW hv ha hb k mu ab tmp1 q
  have hm : 1 ≤ m := hv.1
  have hwidth : k + 4 ≤ W := bitlen_add_four_le hv
  have hpow {i j : Nat} (hij : i ≤ j) : 2 ^ i ≤ 2 ^ j := Nat.pow_le_pow_right Nat.two_pos hij
  have hsq : m ^ 2 < 2 ^ (2 * k) := sq_lt_two_pow hm
  have hpred : (m - 1) ^ 2 < 2 ^ (2 * k) := (Nat.pow_le_pow_left (Nat.sub_le m 1) 2).trans_lt hsq
  obtain ⟨hle, hlt⟩ : q * m ≤ ab ∧ ab < (q + 2) * m := quotientEstimate_bounds ha hb
  have hlow : q ≤ ab / m := (estimate_le_quotient_le_succ hle hlt).1
  have hqm : q * m < m ^ 2 := hle.trans_lt (Nat.pow_two m ▸ Nat.mul_lt_mul'' ha hb)
  have hone (hk : k = 1) : tmp1 = 0 := by
    have hfew : ¬ 2 ≤ k := by omega
    simp only [tmp1, if_neg hfew, ab, product_eq_zero_of_bitlen_lt_two ha hfew, Nat.zero_mul]
  have hdouble : 2 * m < 2 ^ (W - 3) := (adderAndSubtractorIntermediatesFit W m a b hW hv ha hb).2.2.2.1
  exact ⟨product_le_pred_sq ha hb, hpred, hpow (by omega), fun _ => shiftedProduct_lt ha hb, hone,
    (barrettConstant_bounds hm).2, hv.2, shiftedProduct_mul_constant_lt ha hb, hpow (by omega),
    quotientEstimate_lt ha hb, hpow (by omega), hlow, quotient_le_pred ha hb, hqm, hsq, hle,
    estimate_remainder_lt ha hb, hdouble⟩

/-! ### The datapath in its three forms (R146) -/

/-- Steps 4 and 5 in the doubled width, narrowed afterwards, are steps 4 and 5 in W-bit wrapping arithmetic. -/
theorem setWidth_wide_remainder {W : Nat} (m q : Word W) (ab : DWord W) :
    (ab - q.setWidth (2 * W) * m.setWidth (2 * W)).setWidth W = barrettRemainder m q ab := by
  have hle : W ≤ 2 * W := by omega
  rw [barrettRemainder, BitVec.sub_eq_add_neg, BitVec.sub_eq_add_neg, BitVec.setWidth_add _ _ hle,
    BitVec.setWidth_neg_of_le hle, BitVec.setWidth_mul _ _ hle, BitVec.setWidth_setWidth_of_le _ hle,
    BitVec.setWidth_setWidth_of_le _ hle, BitVec.setWidth_eq, BitVec.setWidth_eq]

/-- Settles O31: each line of the datapath is exact, and the correction is exact on the exact remainder. -/
theorem barrettDatapathIsExact : Obligations.BarrettDatapathIsExact := by
  intro s x y hs hcfg hx hy k m ab tmp1 q product quotient wide
  have hc : s.ConstantsHold := hs.constants hcfg
  have hrem : (barrettRemainder s.modulus quotient product).toNat = ab - q * m := datapath_remainder_toNat hc hx hy
  refine ⟨barrettProduct_toNat x y, datapath_shifted_toNat hc hx, datapath_quotient_toNat hc hx hy, hrem,
    setWidth_wide_remainder _ _ _, ?corrected⟩
  case corrected =>
    rw [← hrem]
    exact barrettCorrect_toNat _ _

/-! ### What MULM answers (R145) -/

/-- Settles O32: MULM answers the residue, and the machine's constants are those of the estimate's bounds. -/
theorem mulmAnswersTheModularProduct : Obligations.MulmAnswersTheModularProduct := by
  refine ⟨?_, by decide⟩
  intro s a b hs hr ha hb m k tmp1 q
  have hc : s.ConstantsHold := hs.constants hr.1
  have hbounds := quotientEstimate_bounds ha hb
  rw [← hc.bits_eq, ← hc.mu_eq_constant] at hbounds
  obtain ⟨hle, hlt⟩ := hbounds
  exact ⟨modulus_le_remainder_iff hle hlt, Nat.mod_lt _ (Nat.zero_lt_of_lt ha), (answers_mulm hr ha hb hc).exec_eq⟩

/-! ### The laws of MULM (R149) -/

section
variable {s : State} {a : Nat} (hc : s.ConstantsHold) (hr : s.Ready) (ha : s.InRange a)
include hc hr ha

theorem answers_mulm_one (hm : 1 < s.modulus.toNat) : s.Answers (.mulm a 1) a := by
  have h := answers_mulm hr ha hm hc
  rwa [Nat.mul_one, Nat.mod_eq_of_lt ha] at h

theorem answers_mulm_zero : s.Answers (.mulm a 0) 0 := by
  have h := answers_mulm hr ha (Nat.zero_lt_of_lt ha) hc
  rwa [Nat.mul_zero, Nat.zero_mod] at h

end

/-- Reducing the sum first or the two products first gives the same residue. -/
theorem mul_add_mod_distrib (m a b c : Nat) : a * ((b + c) % m) % m = (a * b % m + a * c % m) % m := by
  rw [Nat.mul_mod_mod, Nat.mul_add, Nat.add_mod]

/-- Settles O33: every answer is a residue, and the residues obey the laws of the integers. -/
theorem multiplicationLaws : Obligations.MultiplicationLaws := by
  intro s a b c hs hr ha hb hcr
  have hc : s.ConstantsHold := hs.constants hr.1
  have residue (v : Nat) : s.InRange (v % s.modulus.toNat) := Nat.mod_lt v (Nat.zero_lt_of_lt ha)
  refine ⟨⟨_, answers_mulm hr ha hb hc, ?commuted⟩, answers_mulm_one hc hr ha, id, answers_mulm_zero hc hr ha,
    ⟨_, _, _, _, answers_addm hr hb hcr, answers_mulm hr ha hb hc, answers_mulm hr ha hcr hc,
      answers_mulm hr ha (residue _) hc, ?distributed⟩⟩
  case commuted =>
    rw [Nat.mul_comm a b]
    exact answers_mulm hr hb ha hc
  case distributed =>
    rw [mul_add_mod_distrib]
    exact answers_addm hr (residue _) (residue _)

end Sys2Proof.Machine
end

section
/-! SUPPORT. The statements of spec/44_accessors.md: the paths of the four accessors (R160), and the laws that tie their
answers together until the next reset (R169). -/

namespace Sys2Proof.Machine

variable {s : State}

/-- Each accessor is the accessors' prologue on its own register, whatever fits the ports (R160). -/
theorem exec_accessor {a b : Nat} {i : Instr} {content : Word s.cfg.W} (ha : FitsPort s.cfg.W a)
    (hb : FitsPort s.cfg.W b) (hi : (i, content) ∈
      [(.rdmod a b, s.modulus), (.rdbits a b, s.modulusBits), (.rdmu a b, s.mu), (.rdalpha a b, s.alpha)]) :
    exec i s = .next (s.readConstant content) := by
  simp only [List.mem_cons, List.not_mem_nil, or_false, Prod.mk.injEq] at hi
  obtain ⟨rfl, rfl⟩ | ⟨rfl, rfl⟩ | ⟨rfl, rfl⟩ | ⟨rfl, rfl⟩ := hi
  · exact exec_rdmod ⟨ha, hb⟩
  · exact exec_rdbits ⟨ha, hb⟩
  · exact exec_rdmu ⟨ha, hb⟩
  · exact exec_rdalpha ⟨ha, hb⟩

/-- Settles O35, by the three paths of the accessors' prologue. -/
theorem accessorsAnswerTheConstants : Obligations.AccessorsAnswerTheConstants := by
  intro s a b i content ha hb hi
  rw [exec_accessor ha hb hi]
  refine ⟨fun hf => ?_, fun hf hc => ?_, fun hf hc => ?_⟩
  · rw [readConstant_of_faulted hf]
    rfl
  · rw [readConstant_of_unconfigured hf hc]
    rfl
  · rw [readConstant_of_ready hf hc]
    rfl

/-- A ready engine answers the four accessors with the contents of its constant registers (R161, R163, R165, R167). -/
theorem answers_accessors (hr : s.Ready) :
    s.Answers (.rdmod 0 0) s.modulus.toNat ∧ s.Answers (.rdbits 0 0) s.modulusBits.toNat ∧
    s.Answers (.rdmu 0 0) s.mu.toNat ∧ s.Answers (.rdalpha 0 0) s.alpha.toNat := by
  have hfit : FitsPort s.cfg.W 0 ∧ FitsPort s.cfg.W 0 := ⟨Nat.two_pow_pos _, Nat.two_pow_pos _⟩
  exact ⟨answers_of_plain hr trivial hfit, answers_of_plain hr trivial hfit, answers_of_plain hr trivial hfit,
    answers_of_plain hr trivial hfit⟩

/-- Settles O37: the answers are the constant registers, which the invariant ties together (R33) and which no run
without a reset writes (R35). -/
theorem accessorLaws : Obligations.AccessorLaws := by
  intro s hs hr
  obtain ⟨-, hbits, halpha, hmu⟩ := hs.constants hr.1
  obtain ⟨hmod, hrdbits, hrdmu, hrdalpha⟩ := answers_accessors hr
  refine ⟨_, _, _, _, halpha, hbits, hmu, hmod, hrdbits, hrdmu, hrdalpha, fun n t hcmd hrun hf => ?_⟩
  obtain ⟨_, _, _, _, _, _, rfl⟩ := constantsLastUntilReset n s t hr.1 hcmd hrun
  exact answers_accessors ⟨hr.1, hf⟩

end Sys2Proof.Machine
end

section
/-! SUPPORT. The statements of spec/60_exceptions.md: the operand gate (R204, R206), which fault a command raises and what
raising one writes (R200, R205, R208), and the faulted engine until its reset (R207, R212). -/

namespace Sys2Proof

/-- The instruction is neither CFG nor a reserved opcode: it needs a configured engine (R208). -/
def Instr.NeedsCfg (i : Instr) : Prop :=
  (∀ a b, i ≠ .cfg a b) ∧ ∀ low a b, i ≠ .reserved low a b

end Sys2Proof

namespace Sys2Proof.Machine

variable {s t : State} {i : Instr}

/-! ### The shared operation that performs an instruction -/

/-- ADDM, SUBM and MULM go through the operand gate, each with the result of its own datapath (R204). -/
theorem exec_arithmetic (ha : i.Arithmetic) (hw : i.WellFormed s.cfg.W) :
    ∃ v, exec i s = .next (s.gate (BitVec.ofNat s.cfg.W i.portA) (BitVec.ofNat s.cfg.W i.portB) v) := by
  match i, ha with
  | .addm a b, _ => exact ⟨_, exec_addm hw⟩
  | .subm a b, _ => exact ⟨_, exec_subm hw⟩
  | .mulm a b, _ => exact ⟨_, exec_mulm hw⟩

/-- An instruction is performed by CFG's operation, by the reserved opcodes', by the operand gate or by the accessors'
prologue. -/
theorem exec_operation (hw : i.WellFormed s.cfg.W) :
    (∃ a b, i = .cfg a b ∧ exec i s = .next (s.configure (BitVec.ofNat s.cfg.W a))) ∨
    (∃ low a b, i = .reserved low a b ∧ exec i s = .next s.refuseOpcode) ∨
    (i.NeedsCfg ∧ i.Arithmetic ∧
      ∃ v, exec i s = .next (s.gate (BitVec.ofNat s.cfg.W i.portA) (BitVec.ofNat s.cfg.W i.portB) v)) ∨
    (i.NeedsCfg ∧ ∃ v, exec i s = .next (s.readConstant v)) := by
  cases i with
  | cfg a b => exact .inl ⟨a, b, rfl, exec_cfg hw⟩
  | reserved low a b => exact .inr (.inl ⟨low, a, b, rfl, exec_reserved hw⟩)
  | addm a b => exact .inr (.inr (.inl ⟨⟨nofun, nofun⟩, trivial, exec_arithmetic trivial hw⟩))
  | subm a b => exact .inr (.inr (.inl ⟨⟨nofun, nofun⟩, trivial, exec_arithmetic trivial hw⟩))
  | mulm a b => exact .inr (.inr (.inl ⟨⟨nofun, nofun⟩, trivial, exec_arithmetic trivial hw⟩))
  | rdmod a b => exact .inr (.inr (.inr ⟨⟨nofun, nofun⟩, _, exec_rdmod hw⟩))
  | rdbits a b => exact .inr (.inr (.inr ⟨⟨nofun, nofun⟩, _, exec_rdbits hw⟩))
  | rdmu a b => exact .inr (.inr (.inr ⟨⟨nofun, nofun⟩, _, exec_rdmu hw⟩))
  | rdalpha a b => exact .inr (.inr (.inr ⟨⟨nofun, nofun⟩, _, exec_rdalpha hw⟩))

/-! ### The operand gate (R204, R206) -/

/-- An out-of-range operand on a ready engine is answered with a draw when CHECKED is false. -/
theorem exec_of_outOfRange_unchecked (ha : i.Arithmetic) (hw : i.WellFormed s.cfg.W) (hf : s.faulted = false)
    (hc : s.configured = true) (ho : s.PortOutOfRange i) (hk : s.cfg.checked = false) :
    exec i s = .next s.respondDraw := by
  obtain ⟨v, h⟩ := exec_arithmetic ha hw
  rw [h, gate_of_outOfRange_unchecked hf hc ((outOfRange_ports_iff hw).2 ho) hk]

/-- Settles O24: the path of the gate that answers a draw. -/
theorem uncheckedOperandsAnswerAFreshDraw : Obligations.UncheckedOperandsAnswerAFreshDraw :=
  fun _ _ ha hw hr ho hk => exec_of_outOfRange_unchecked ha hw hr.2 hr.1 ho hk

/-- Settles O23, by the paths of the gate in their order. -/
theorem operandGateOfTheArithmeticCommands : Obligations.OperandGateOfTheArithmeticCommands := by
  intro s i ha hw
  obtain ⟨v, h⟩ := exec_arithmetic ha hw
  have hports := outOfRange_ports_iff hw
  refine ⟨fun hf => ?_, fun hf hc => ?_, fun hf hc ho hk => ?_, fun hf hc ho hk => ?_, fun hf hc ho => ⟨v, ?_⟩⟩
  · rw [h, gate_of_faulted hf]
    rfl
  · rw [h, gate_of_unconfigured hf hc]
    rfl
  · rw [h, gate_of_outOfRange_checked hf hc (hports.2 ho) hk]
    rfl
  · exact ⟨_, _, exec_of_outOfRange_unchecked ha hw hf hc ho hk⟩
  · rw [h, gate_of_inRange hf hc (mt hports.1 ho)]
    rfl

/-! ### The fault a command raises (R205) -/

/-- The condition of each cause, on an engine that is not faulted (R205). -/
def State.Raises (s : State) (i : Instr) : Cause → Prop
  | .illegalOpcode => ∃ low a b, i = .reserved low a b
  | .notConfigured => s.configured = false ∧ i.NeedsCfg
  | .alreadyConfigured => s.configured = true ∧ ∃ a b, i = .cfg a b
  | .invalidModulus => s.configured = false ∧ ∃ a b, i = .cfg a b ∧ ¬ ValidModulus s.cfg.W a
  | .operandRange => s.configured = true ∧ s.cfg.checked = true ∧ i.Arithmetic ∧ s.PortOutOfRange i

/-- Before CFG, the operand gate and the accessors' prologue raise NOT_CONFIGURED (R208). -/
theorem exec_of_unconfigured (hw : i.WellFormed s.cfg.W) (hf : s.faulted = false) (hc : s.configured = false)
    (hn : i.NeedsCfg) : exec i s = .next (s.raiseFault .notConfigured) := by
  obtain ⟨a, b, hi, -⟩ | ⟨low, a, b, hi, -⟩ | ⟨-, -, v, h⟩ | ⟨-, v, h⟩ := exec_operation hw
  · exact absurd hi (hn.1 a b)
  · exact absurd hi (hn.2 low a b)
  · rw [h, gate_of_unconfigured hf hc]
  · rw [h, readConstant_of_unconfigured hf hc]

/-- Under the condition of a cause, that fault is raised. -/
theorem exec_of_raises {c : Cause} (hw : i.WellFormed s.cfg.W) (hf : s.faulted = false) (h : s.Raises i c) :
    exec i s = .next (s.raiseFault c) := by
  cases c with
  | illegalOpcode =>
    obtain ⟨low, a, b, rfl⟩ := h
    rw [exec_reserved hw, refuseOpcode_of_unfaulted hf]
  | notConfigured => exact exec_of_unconfigured hw hf h.1 h.2
  | alreadyConfigured =>
    obtain ⟨hc, a, b, rfl⟩ := h
    rw [exec_cfg hw, configure_of_configured hf hc]
  | invalidModulus =>
    obtain ⟨hc, a, b, rfl, hv⟩ := h
    exact exec_cfg_of_invalid hw.1 hw.2 hf hc hv
  | operandRange =>
    obtain ⟨hc, hk, ha, ho⟩ := h
    obtain ⟨v, h⟩ := exec_arithmetic ha hw
    rw [h, gate_of_outOfRange_checked hf hc ((outOfRange_ports_iff hw).2 ho) hk]

/-- An engine that becomes faulted met the condition of a cause: on every other path the shared operation leaves FAULTED
as it was. -/
theorem exists_raises (h : exec i s = .next t) (hf : s.faulted = false) (ht : t.faulted = true) :
    ∃ c, s.Raises i c := by
  have hw := wellFormed_of_exec_next h
  have unfaulted {u v : State} (ho : exec i s = .next u) (e : u = v) (hv : v.faulted = s.faulted) :
      ∃ c, s.Raises i c := by
    rw [h] at ho
    injection ho with ho
    rw [← e, ← ho, ht, hf] at hv
    cases hv
  obtain ⟨a, b, hi, ho⟩ | ⟨low, a, b, hi, -⟩ | ⟨hn, ha, v, ho⟩ | ⟨hn, v, ho⟩ := exec_operation (s := s) hw
  · obtain ⟨-, e⟩ | ⟨-, hc, -⟩ | ⟨-, hc, hv, -⟩ | ⟨-, -, -, e⟩ := configure_cases s (BitVec.ofNat s.cfg.W a)
    · exact unfaulted ho e rfl
    · exact ⟨.alreadyConfigured, hc, a, b, hi⟩
    · subst hi
      rw [toNat_port (v := a) hw.1] at hv
      exact ⟨.invalidModulus, hc, a, b, rfl, hv⟩
    · exact unfaulted ho e rfl
  · exact ⟨.illegalOpcode, low, a, b, hi⟩
  · obtain ⟨-, e⟩ | ⟨-, hc, -⟩ | ⟨-, hc, hr, hk, -⟩ | ⟨-, -, -, -, e⟩ | ⟨-, -, -, e⟩ := gate_cases s _ _ v
    · exact unfaulted ho e rfl
    · exact ⟨.notConfigured, hc, hn⟩
    · exact ⟨.operandRange, hc, hk, ha, (outOfRange_ports_iff hw).1 hr⟩
    · exact unfaulted ho e rfl
    · exact unfaulted ho e rfl
  · obtain ⟨-, e⟩ | ⟨-, hc, -⟩ | ⟨-, -, e⟩ := readConstant_cases s v
    · exact unfaulted ho e rfl
    · exact ⟨.notConfigured, hc, hn⟩
    · exact unfaulted ho e rfl

/-- CAUSE holds a code after an instruction exactly when its condition was met: raising the fault writes the code, and
CAUSE is NONE as long as FAULTED = 0. -/
theorem cause_eq_code_iff (hs : s.Inv) (h : exec i s = .next t) (hf : s.faulted = false) (c : Cause) :
    t.cause = c.code ↔ s.Raises i c := by
  obtain ⟨hw, hx⟩ := exec_next_cases h
  have code_of_raises {d : Cause} (hd : s.Raises i d) : t.cause = d.code := by
    have he := exec_of_raises hw hf hd
    rw [h] at he
    injection he with he
    rw [he, State.raiseFault_cause]
  refine ⟨fun hc => ?_, code_of_raises⟩
  have ht : t.faulted = true := by
    by_contra hn
    rw [(hx.inv hs).cause.none_iff.2 (Bool.eq_false_of_not_eq_true hn)] at hc
    have hpos := code_toNat_pos c
    rw [← hc] at hpos
    exact absurd hpos (by decide)
  obtain ⟨d, hd⟩ := exists_raises h hf ht
  rwa [code_inj.1 (hc.symm.trans (code_of_raises hd))]

/-- A faulted engine only answers its cause (R207). -/
theorem ExecCase.eq_of_faulted (h : ExecCase s i t) (hf : s.faulted = true) : t = s.answerFaulted := by
  cases h with
  | faulted => rfl
  | raised hn => simp [hf] at hn
  | configured hn => simp [hf] at hn
  | performed hn => simp [hf] at hn
  | drawn hn => simp [hf] at hn

/-- Settles O43: each code under its condition, and the rest by the invariant of the next state. -/
theorem eachFaultIsRaisedUnderItsCondition : Obligations.EachFaultIsRaisedUnderItsCondition := by
  intro s i t hs h
  have hx := (exec_next_cases h).2
  have ht := (hx.inv hs).cause
  refine ⟨hx.eq_of_faulted, fun hf => ?_⟩
  have hcode := cause_eq_code_iff hs h hf
  exact ⟨hcode .illegalOpcode, hcode .notConfigured, hcode .alreadyConfigured, hcode .invalidModulus,
    hcode .operandRange, ht.none_iff, ht.not_reserved⟩

/-- Settles O39: the seven commands are those that need a configured engine. -/
theorem useBeforeCfgRaisesNotConfigured : Obligations.UseBeforeCfgRaisesNotConfigured := by
  intro s a b i ha hb hi hf hc
  simp only [List.mem_cons, List.not_mem_nil, or_false] at hi
  obtain rfl | rfl | rfl | rfl | rfl | rfl | rfl := hi <;>
    exact exec_of_unconfigured ⟨ha, hb⟩ hf hc ⟨nofun, nofun⟩

/-- Settles O41: of the ways an instruction can end, only the raising of a fault sets FAULTED. -/
theorem raisingAFaultWritesOnlyFaultedAndCause : Obligations.RaisingAFaultWritesOnlyFaultedAndCause := by
  intro s i t h hf ht
  cases (exec_next_cases h).2 with
  | raised _ c => exact ⟨c, code_toNat_pos c, code_toNat_le c, rfl⟩
  | faulted => exact absurd ht (by simp [hf])
  | configured => exact absurd ht (by simp [hf])
  | performed => exact absurd ht (by simp [hf])
  | drawn => exact absurd ht (by simp [hf])

/-! ### The faulted engine (R207, R212) -/

/-- A faulted engine answers every well-formed instruction its cause. -/
theorem exec_of_faulted (hw : i.WellFormed s.cfg.W) (hf : s.faulted = true) : exec i s = .next s.answerFaulted := by
  obtain ⟨t, h⟩ := exec_next_of_wellFormed hw
  rw [h, (exec_next_cases h).2.eq_of_faulted hf]

/-- Settles O40: the answer is the one way a faulted engine can end an instruction, and only the reset clears FAULTED. -/
theorem faultedEngineAnswersEveryCommandWithItsCause : Obligations.FaultedEngineAnswersEveryCommandWithItsCause :=
  ⟨fun _ _ => exec_of_faulted, fun s t hf h => (onlyResetClearsAFault s t h).1 hf⟩

/-- The response of a faulted engine to any command. -/
def State.faultResponse (s : State) : Response s.cfg.W :=
  { result := 0, status := .fault, cause := s.cause }

/-- What a faulted engine delivers for a sequence of commands. -/
def State.faultDeliveries (s : State) (l : List (PortEvent s.cfg.W)) : List (Delivery s.cfg.W) :=
  (issuers l).map fun host => { host := host, response := s.faultResponse }

/-- A step of a faulted engine on a command delivers its response and writes no register. -/
theorem step_of_faulted (hf : s.faulted = true) (host : Nat) (cmd : Command s.cfg.W)
    (r : Option (Response s.cfg.W)) (rest : List (PortEvent s.cfg.W)) (d : List (Delivery s.cfg.W)) :
    step { s with response := r, arrivals := .command host cmd :: rest, delivered := d } =
      .next { s with
        response := some s.faultResponse, arrivals := rest,
        delivered := d ++ [{ host := host, response := s.faultResponse }] } := by
  have h := exec_of_faulted (s := { s with response := r, arrivals := rest, delivered := d })
    (decode_wellFormed cmd) hf
  exact stepRunsTheDecodedInstruction { s with response := r, delivered := d } host cmd rest _ h

/-- A faulted engine performs `n` steps of a sequence of commands, writing no register. -/
theorem run_of_faulted (hf : s.faulted = true) (n : Nat) (l : List (PortEvent s.cfg.W)) (hl : ∀ e ∈ l, e.IsCommand)
    (r : Option (Response s.cfg.W)) (d : List (Delivery s.cfg.W)) :
    ∃ r', run n { s with response := r, arrivals := l, delivered := d } =
      .next { s with response := r', arrivals := l.drop n, delivered := d ++ s.faultDeliveries (l.take n) } := by
  induction n generalizing l r d with
  | zero => exact ⟨r, by simp [State.faultDeliveries, issuers]⟩
  | succ n ih =>
    cases l with
    | nil =>
      obtain ⟨r', h⟩ := ih [] hl r d
      rw [List.drop_nil, List.take_nil] at h
      exact ⟨r', (run_succ n (step_of_no_arrival rfl)).trans h⟩
    | cons e rest =>
      obtain ⟨he, hrest⟩ := List.forall_mem_cons.1 hl
      cases e with
      | reset => exact he.elim
      | command host cmd =>
        obtain ⟨r', h⟩ := ih rest hrest (some s.faultResponse) (d ++ [{ host := host, response := s.faultResponse }])
        rw [List.append_assoc] at h
        exact ⟨r', (run_succ n (step_of_faulted hf host cmd r rest d)).trans h⟩

/-- Settles O52: the run's one outcome, by induction on the number of steps. -/
theorem faultLastsUntilReset : Obligations.FaultLastsUntilReset := by
  intro n s t hf hs h
  obtain ⟨r, hrun⟩ := run_of_faulted hf n s.arrivals hs s.response s.delivered
  have ht := h.symm.trans hrun
  injection ht with ht
  subst ht
  refine ⟨fun hn => ?_, r, s.faultDeliveries (s.arrivals.take n), rfl, ?_, fun x hx => ?_⟩
  · rw [State.NormalEnd, hf] at hn
    cases hn
  · rw [State.faultDeliveries, List.map_map]
    exact List.map_id _
  · obtain ⟨host, -, rfl⟩ := List.mem_map.1 hx
    rfl

/-! ### The engine sees no host (R216) -/

/-- Settles O14: what `exec` answers, which takes no host, is delivered to either. -/
theorem engineSeesNoHost : Obligations.EngineSeesNoHost := by
  intro s h h' cmd rest
  obtain ⟨t, ht⟩ := exec_next_of_wellFormed (s := { s with arrivals := rest }) (decode_wellFormed cmd)
  exact ⟨t, stepRunsTheDecodedInstruction s h cmd rest t ht, stepRunsTheDecodedInstruction s h' cmd rest t ht⟩

end Sys2Proof.Machine
end

section
/-! SUPPORT. The statements of spec/70_reset_and_hazards.md: what a reset writes and what it leaves (R240, R244), and the
engine that waits (R241). -/

namespace Sys2Proof.Machine

/-- The whole next state of a reset: the registers at 0 and the port empty, the reset taken from the arrivals, and all
else as before (R240, R244). -/
theorem step_of_reset_next (s : State) (rest : List (PortEvent s.cfg.W)) :
    step { s with arrivals := .reset :: rest } =
      .next { s with
        modulus := 0, modulusBits := 0, mu := 0, alpha := 0, configured := false, faulted := false, cause := 0,
        response := none, arrivals := rest } :=
  step_of_reset (s := { s with arrivals := .reset :: rest }) rfl

/-- Settles O15, by the whole next state of a reset, and by the power-on state's own fields. -/
theorem resetSetsEveryRegister : Obligations.ResetSetsEveryRegister :=
  ⟨fun s rest => ⟨_, _, _, step_of_reset_next s rest⟩, fun _ => ⟨rfl, rfl, rfl, rfl, rfl, rfl, rfl⟩⟩

/-- Settles O16, by the whole next state of a reset. -/
theorem resetGivesNothingBack : Obligations.ResetGivesNothingBack :=
  fun s rest => ⟨_, _, _, _, _, _, _, step_of_reset_next s rest⟩

/-- Settles O10: the branch of a step with no arrival left. -/
theorem engineWaitsForACommand : Obligations.EngineWaitsForACommand :=
  fun _ => step_of_no_arrival

end Sys2Proof.Machine
end
